-- ==== Sys2Proof/Word.lean ====
section
/-! DEFINITION. The bytes and words of the block (spec/00_scope.md section 5). -/

namespace Sys2Proof

/-- A byte: 8 bits, unsigned (00_scope.md section 5). -/
abbrev Byte := BitVec 8

/-- A word: 32 bits, unsigned (00_scope.md section 5, parameter `WORD_WIDTH` of R5). -/
abbrev Word := BitVec 32

end Sys2Proof
end

