-- ==== Sys2Proof/Machine/CrcEngine.lean ====
section
/-! DEFINITION. The CRC engine (spec/40_crc.md R70 to R73). -/

namespace Sys2Proof.Machine

/-- `CRC_POLY` (00_scope.md R5). -/
def crcPoly : Byte := 0x31

/-- `CRC_INIT` (00_scope.md R5). -/
def crcInit : Byte := 0xFF

/-- One bit iteration (40_crc.md R72): the bit tested is `CRC[7]` before the shift. -/
def crcIteration (r : Byte) : Byte :=
  if r.msb then (r <<< 1) ^^^ crcPoly else r <<< 1

/-- `n` bit iterations. -/
def crcIterate : Nat → Byte → Byte
  | 0, r => r
  | n + 1, r => crcIterate n (crcIteration r)

/-- Absorbing a byte (40_crc.md R71): exclusive or, then eight iterations (`CRC_ITER`). -/
def crcAbsorb (r b : Byte) : Byte := crcIterate 8 (r ^^^ b)

/-- The checksum of a data block (40_crc.md R70 to R73): start at `CRC_INIT`, absorb `b0`, then `b1`; no final exclusive or. -/
def crc8 (b0 b1 : Byte) : Byte := crcAbsorb (crcAbsorb crcInit b0) b1

end Sys2Proof.Machine
end

