-- ==== Sys2Proof/Config.lean ====
section
/-! DEFINITION. What the spec leaves to the model's arguments (spec/00_scope.md R6; their defaults are in
Decode.lean), and the free values of the environment. -/

namespace Sys2Proof

/-- `TIE_RULE` (00_scope.md R6, 43_float_decode.md R94): which integer a value exactly halfway between two integers
rounds to. The spec's value is `halfEven`; the two others are the ones 91_not_in_source.md N7 names as not to be
assumed, kept so that nothing about ties is proved by accident (entry 7). -/
inductive TieRule
  | halfEven
  | halfUp
  | halfAway
  deriving DecidableEq, Repr

/-- A row of the command table (30_encoding.md R58): the two bytes of the code, the fixed payload and the response length in
bytes, `none` where it is not stated. The table's other columns follow: a request has `2 + 3 * len(payload) / 2` bytes (R61)
and a response a triplet for each three bytes. -/
structure CommandRow where
  hi : Byte
  lo : Byte
  payload : List Byte
  response : Option Nat
  deriving DecidableEq, Repr

/-- `CMD_TABLE` (30_encoding.md R58: "The table is configuration of the host, and a model takes it as a parameter"): the
fifteen rows, in the table's order. -/
structure CommandTable where
  startMeasurement : CommandRow
  stopMeasurement : CommandRow
  readDataReady : CommandRow
  readMeasurement : CommandRow
  sleep : CommandRow
  wakeup : CommandRow
  startFanCleaning : CommandRow
  readAutoclean : CommandRow
  /-- Its payload is the operand of the command. Its response length is the host parameter `AUTOCLEAN_WRITE_RESP_LEN`
  (92_eei_decisions.md D29). -/
  writeAutoclean : CommandRow
  productType : CommandRow
  serialNumber : CommandRow
  firmwareVersion : CommandRow
  readStatus : CommandRow
  clearStatus : CommandRow
  reset : CommandRow
  deriving DecidableEq, Repr

/-- The model arguments of 00_scope.md R6 that an operation of the block or a command wrapper depends on. `none` is
"unbounded". -/
structure Config where
  /-- `MAX_PAYLOAD_LEN` (R6, 41_frame_build.md R80). -/
  maxPayloadLen : Option Nat
  /-- `MAX_RESPONSE_LEN` (R6, 42_frame_parse.md R85). -/
  maxResponseLen : Option Nat
  /-- `TIE_RULE` (R6, 43_float_decode.md R94). -/
  tieRule : TieRule
  /-- `CMD_TABLE` (R6, 30_encoding.md R58). -/
  commands : CommandTable
  deriving DecidableEq, Repr

/-- FREE VALUE (entry 8): the bytes the transport's `read` delivers once the bytes placed in the inbox are used up,
numbered by a counter of State. 93_implementation_defined.md U21: "`any value` for every byte a `read` returns". -/
opaque Config.sensorByte : Nat → Byte

/-- FREE VALUE (entry 9): whether a transport call returns or fails once the outcomes placed in State are used up.
45_environment.md R110: "A `read` or `write` may fail". -/
opaque Config.callSucceeds : Nat → Bool

end Sys2Proof
end

