-- ==== Sys2Proof/Syntax.lean ====
section
/-! DEFINITION. The instructions: one constructor per row of spec/opcode_table.json. The eight OP rows are the block's
operations (spec/30_encoding.md R50, R60); the fifteen CMD rows are the Driver's command wrappers (R58, R63). -/

namespace Sys2Proof

/-- The operations of the opcode table with their operands as typed values (30_encoding.md R50: "operands are delivered
beside it as typed values (bytes, a byte sequence, a word), not packed into an instruction word"). -/
inductive Instr
  /-- RESERVED.0 (R60). -/
  | reserved0
  /-- CRC.COMPUTE `b0, b1` (40_crc.md R74). -/
  | crcCompute (b0 b1 : Byte)
  /-- CRC.VALIDATE `b0, b1, c` (40_crc.md R75). -/
  | crcValidate (b0 b1 c : Byte)
  /-- FRAME.BUILD `cmd_hi, cmd_lo [, PAY]` (41_frame_build.md R80). -/
  | frameBuild (hi lo : Byte) (pay : Option (List Byte))
  /-- FRAME.PARSE `RX` (42_frame_parse.md R85). -/
  | frameParse (rx : List Byte)
  /-- FIELD.PARSE `RX` (42_frame_parse.md R87). -/
  | fieldParse (rx : List Byte)
  /-- FLOAT.DECODE `w` (43_float_decode.md R95). -/
  | floatDecode (w : Word)
  /-- MEAS.PARSE `RX` (44_measurement.md R107). -/
  | measParse (rx : List Byte)
  | cmdStartMeasurement
  | cmdStopMeasurement
  | cmdReadDataReady
  | cmdReadMeasurement
  | cmdSleep
  | cmdWakeup
  | cmdStartFanCleaning
  | cmdReadAutoclean
  /-- CMD.WRITE_AUTOCLEAN `s`: the interval in seconds (30_encoding.md R63). -/
  | cmdWriteAutoclean (seconds : Word)
  | cmdProductType
  | cmdSerialNumber
  | cmdFirmwareVersion
  | cmdReadStatus
  | cmdClearStatus
  | cmdReset
  deriving DecidableEq, Repr

end Sys2Proof
end

