-- ==== Sys2Proof/WellFormed.lean ====
section
/-! DEFINITION. Which instructions are in canonical form. Every byte, sequence and word is a legal operand; a sequence of
a length an operation does not accept is legal syntax, and the operation faults on it (spec/20_memory.md R36). The one
check is on the optional payload. A command table has a check of its own: its codes tell the commands apart. -/

namespace Sys2Proof

/-- "An absent payload and an empty payload are the same operand" (41_frame_build.md R80, 92_eei_decisions.md D8): the
canonical form of that operand is the absent payload, so a payload that is given is not empty. -/
def Instr.wellFormed : Instr → Bool
  | .frameBuild _ _ (some pay) => !pay.isEmpty
  | _ => true

/-- The rows of the fourteen commands without an operand, in the order of 30_encoding.md R58. -/
def CommandTable.plainRows (t : CommandTable) : List CommandRow :=
  [t.startMeasurement, t.stopMeasurement, t.readDataReady, t.readMeasurement, t.sleep, t.wakeup, t.startFanCleaning,
   t.readAutoclean, t.productType, t.serialNumber, t.firmwareVersion, t.readStatus, t.clearStatus, t.reset]

/-- No two commands without an operand have the same code. The auto-clean write may share one: its operand tells it apart
(90_conflicts.md C6). A table of which this is false is a legal argument too (entry 21). -/
def CommandTable.wellFormed (t : CommandTable) : Bool :=
  decide (t.plainRows.map fun r => (r.hi, r.lo)).Nodup

end Sys2Proof
end

