-- ==== Sys2Proof/Decode.lean ====
section
/-! DEFINITION. What the host hands over to start an operation, the decoder (total, rejecting by name) and the encoder. The
operation codes are spec/30_encoding.md R50, the command codes those of the command table, its R58. How operands are laid out
as bytes beside the code is the model's own (DESIGN CHOICE, entry 2). -/

namespace Sys2Proof

/-! ### The defaults of the model arguments -/

/-- The table of 30_encoding.md R58, every literal as printed there (UNVERIFIED, entry 11): the default of `CMD_TABLE`
(93_implementation_defined.md U16). The response length of row 9 is not stated (91_not_in_source.md N14). -/
def CommandTable.default : CommandTable where
  startMeasurement := ⟨0xD0, 0x10, [0x03, 0x00], some 0⟩
  stopMeasurement := ⟨0x01, 0x04, [], some 0⟩
  readDataReady := ⟨0x02, 0x02, [], some 3⟩
  readMeasurement := ⟨0x03, 0x00, [], some 60⟩
  sleep := ⟨0x10, 0x01, [], some 0⟩
  wakeup := ⟨0x11, 0x03, [], some 0⟩
  startFanCleaning := ⟨0x56, 0x07, [], some 0⟩
  readAutoclean := ⟨0x80, 0x04, [], some 6⟩
  writeAutoclean := ⟨0x80, 0x04, [], none⟩
  productType := ⟨0xD0, 0x02, [], some 12⟩
  serialNumber := ⟨0xD0, 0x33, [], some 48⟩
  firmwareVersion := ⟨0xD1, 0x00, [], some 3⟩
  readStatus := ⟨0xD2, 0x06, [], some 6⟩
  clearStatus := ⟨0xD2, 0x10, [], some 0⟩
  reset := ⟨0xD3, 0x04, [], some 0⟩

/-- The values 00_scope.md R6 takes by default: both lengths unbounded, ties to even, the command table as printed. -/
def Config.default : Config :=
  { maxPayloadLen := none, maxResponseLen := none, tieRule := .halfEven, commands := CommandTable.default }

/-! ### Requests -/

/-- What the host selects. `op`: the block's 3-bit `OP` (30_encoding.md R50) with the operand bytes beside it. `cmd`: a
command wrapper, by the two command bytes of R58, with its operand bytes. -/
inductive Request
  | op (code : BitVec 3) (operands : List Byte)
  | cmd (hi lo : Byte) (operands : List Byte)
  deriving DecidableEq, Repr

/-- Why a request names no instruction. -/
inductive DecodeError
  /-- The operation exists, and the operand bytes are not the operands R50 gives it. -/
  | wrongOperands (code : BitVec 3) (got : Nat)
  /-- The command exists, and the operand bytes are not the ones R63 gives it. -/
  | wrongCommandOperands (hi lo : Byte) (got : Nat)
  /-- No row of the command table R58 has these two bytes. -/
  | unknownCommand (hi lo : Byte)
  deriving DecidableEq, Repr

/-- The word of four bytes, big-endian (20_memory.md R33, 42_frame_parse.md R87). -/
def wordOfBytes (b0 b1 b2 b3 : Byte) : Word :=
  (b0.setWidth 32 <<< 24) ||| (b1.setWidth 32 <<< 16) ||| (b2.setWidth 32 <<< 8) ||| b3.setWidth 32

/-- The four bytes of a word, big-endian: `[s[31:24] s[23:16] s[15:8] s[7:0]]` (30_encoding.md R63). -/
def bytesOfWord (w : Word) : List Byte :=
  [w.extractLsb' 24 8, w.extractLsb' 16 8, w.extractLsb' 8 8, w.extractLsb' 0 8]

/-- The commands without operands, each with its row of the table (30_encoding.md R58). -/
def plainCommands (t : CommandTable) : List (CommandRow × Instr) :=
  [(t.startMeasurement, .cmdStartMeasurement), (t.stopMeasurement, .cmdStopMeasurement),
   (t.readDataReady, .cmdReadDataReady), (t.readMeasurement, .cmdReadMeasurement),
   (t.sleep, .cmdSleep), (t.wakeup, .cmdWakeup), (t.startFanCleaning, .cmdStartFanCleaning),
   (t.readAutoclean, .cmdReadAutoclean), (t.productType, .cmdProductType),
   (t.serialNumber, .cmdSerialNumber), (t.firmwareVersion, .cmdFirmwareVersion),
   (t.readStatus, .cmdReadStatus), (t.clearStatus, .cmdClearStatus), (t.reset, .cmdReset)]

/-- Whether a row has the code `hi lo`. -/
def CommandRow.hasCode (r : CommandRow) (hi lo : Byte) : Bool := r.hi = hi && r.lo = lo

/-- The command of a code among `rows`: the first row that has it. A table may give two commands without an operand one code
(the spec does not say that codes are distinct); then the first in the table's order is the one that is selected and the later one
cannot be (DESIGN CHOICE, entry 21). -/
def lookupCommand (hi lo : Byte) : List (CommandRow × Instr) → Option Instr
  | [] => none
  | (r, i) :: rows => if r.hasCode hi lo then some i else lookupCommand hi lo rows

/-- Why two command bytes with operand bytes name no command: no row has the code, or the operands are not the ones
30_encoding.md R63 gives the command. -/
def rejectCommand (t : CommandTable) (hi lo : Byte) (operands : List Byte) : DecodeError :=
  if (lookupCommand hi lo (plainCommands t)).isSome || t.writeAutoclean.hasCode hi lo then
    .wrongCommandOperands hi lo operands.length
  else .unknownCommand hi lo

/-- The command wrapper of two command bytes and its operand bytes (30_encoding.md R58, R63). CMD.WRITE_AUTOCLEAN, the one
command with an operand, is told apart by it (90_conflicts.md C6). -/
def decodeCmd (t : CommandTable) (hi lo : Byte) (operands : List Byte) : Except DecodeError Instr :=
  match operands with
  | [] =>
    match lookupCommand hi lo (plainCommands t) with
    | some i => .ok i
    | none => .error (rejectCommand t hi lo [])
  | [s0, s1, s2, s3] =>
    if t.writeAutoclean.hasCode hi lo then .ok (.cmdWriteAutoclean (wordOfBytes s0 s1 s2 s3))
    else .error (rejectCommand t hi lo [s0, s1, s2, s3])
  | _ => .error (rejectCommand t hi lo operands)

/-- The payload operand of FRAME.BUILD in its canonical form (41_frame_build.md R80). -/
def payloadOperand : List Byte → Option (List Byte)
  | [] => none
  | b :: bs => some (b :: bs)

/-- The operation of a 3-bit `OP` and its operand bytes (30_encoding.md R50). `OP` = 0 is RESERVED.0 whatever stands beside
it: selecting it raises the fault (R60). -/
def decodeOp (code : BitVec 3) (operands : List Byte) : Except DecodeError Instr :=
  if code = 0 then .ok .reserved0
  else if code = 1 then
    match operands with
    | [b0, b1] => .ok (.crcCompute b0 b1)
    | _ => .error (.wrongOperands code operands.length)
  else if code = 2 then
    match operands with
    | [b0, b1, c] => .ok (.crcValidate b0 b1 c)
    | _ => .error (.wrongOperands code operands.length)
  else if code = 3 then
    match operands with
    | hi :: lo :: pay => .ok (.frameBuild hi lo (payloadOperand pay))
    | _ => .error (.wrongOperands code operands.length)
  else if code = 4 then .ok (.frameParse operands)
  else if code = 5 then .ok (.fieldParse operands)
  else if code = 6 then
    match operands with
    | [b0, b1, b2, b3] => .ok (.floatDecode (wordOfBytes b0 b1 b2 b3))
    | _ => .error (.wrongOperands code operands.length)
  else .ok (.measParse operands)

/-- The decoder, under a command table. -/
def decode (t : CommandTable) : Request → Except DecodeError Instr
  | .op code operands => decodeOp code operands
  | .cmd hi lo operands => decodeCmd t hi lo operands

/-- The request of a command row. -/
def CommandRow.request (r : CommandRow) (operands : List Byte) : Request := .cmd r.hi r.lo operands

/-- The encoder: the request that selects an instruction, under a command table. -/
def encode (t : CommandTable) : Instr → Request
  | .reserved0 => .op 0 []
  | .crcCompute b0 b1 => .op 1 [b0, b1]
  | .crcValidate b0 b1 c => .op 2 [b0, b1, c]
  | .frameBuild hi lo pay => .op 3 (hi :: lo :: pay.getD [])
  | .frameParse rx => .op 4 rx
  | .fieldParse rx => .op 5 rx
  | .floatDecode w => .op 6 (bytesOfWord w)
  | .measParse rx => .op 7 rx
  | .cmdStartMeasurement => t.startMeasurement.request []
  | .cmdStopMeasurement => t.stopMeasurement.request []
  | .cmdReadDataReady => t.readDataReady.request []
  | .cmdReadMeasurement => t.readMeasurement.request []
  | .cmdSleep => t.sleep.request []
  | .cmdWakeup => t.wakeup.request []
  | .cmdStartFanCleaning => t.startFanCleaning.request []
  | .cmdReadAutoclean => t.readAutoclean.request []
  | .cmdWriteAutoclean s => t.writeAutoclean.request (bytesOfWord s)
  | .cmdProductType => t.productType.request []
  | .cmdSerialNumber => t.serialNumber.request []
  | .cmdFirmwareVersion => t.firmwareVersion.request []
  | .cmdReadStatus => t.readStatus.request []
  | .cmdClearStatus => t.clearStatus.request []
  | .cmdReset => t.reset.request []

/-- How many operand bytes of zeros stand beside a code that is given alone: the operands of R50, with a whole field and a
whole measurement frame for the two operations of fixed length and one triplet for FRAME.PARSE. -/
def zeroOperandCount (code : BitVec 3) : Nat :=
  if code = 1 then 2 else if code = 2 then 3 else if code = 3 then 2 else if code = 4 then 3
  else if code = 5 then 6 else if code = 6 then 4 else if code = 7 then 60 else 0

/-- The request of an opcode-table word: a row of at most 8 bits is an `OP` code (bits 2:0; the code has no other bits)
with operand bytes of zeros; a row of 16 bits is a command code, `cmd_hi` in bits 15:8 (20_memory.md R32), without
operands. No row of the table has another width. -/
def requestOfTableWord (nbits w : Nat) : Option Request :=
  if nbits ≤ 8 then
    some (.op (BitVec.ofNat 3 w) (List.replicate (zeroOperandCount (BitVec.ofNat 3 w)) 0))
  else if nbits = 16 then some (.cmd (BitVec.ofNat 8 (w / 256)) (BitVec.ofNat 8 w) [])
  else none

/-- The instruction the decoder reads from an opcode-table word, under the command table as printed, whose codes are those of
the opcode table. -/
def decodeTableWord (nbits w : Nat) : Option Instr :=
  match requestOfTableWord nbits w with
  | none => none
  | some r =>
    match decode CommandTable.default r with
    | .ok i => some i
    | .error _ => none

end Sys2Proof
end

