-- ==== Sys2Proof/Machine/State.lean ====
section
/-! DEFINITION. The state of the block (spec/10_state.md), the reasons a step can stop, and the state after reset. Every
register has the spec's name in lower camel case; INVENTORY.md lists each with its rule. -/

namespace Sys2Proof.Machine

/-- `FC` (10_state.md R18): the class of a decoded value. -/
inductive FloatClass
  | fin
  | pinf
  | ninf
  | nan
  deriving DecidableEq, Repr

/-- A decoded value (10_state.md R18, R19): its class and, when finite, the count of thousandths. -/
structure Reading where
  cls : FloatClass
  q : Int
  deriving DecidableEq, Repr

/-- An entry of `TR` (42_frame_parse.md R85): the data bytes as received and the triplet's validity. -/
structure Triplet where
  b0 : Byte
  b1 : Byte
  valid : Bool
  deriving DecidableEq, Repr

/-- What MEAS.PARSE delivers, held in result registers that it alone writes (10_state.md R15, R19, R20). -/
structure Measurement where
  /-- `MV[0..9]`; `none` is an absent entry. -/
  mv : Vector (Option Reading) 10
  sbvMd : Bool
  sbvPc : Bool
  sbvPs : Bool
  complete : Bool
  failfMd : BitVec 4
  failfPc : BitVec 4
  failfPs : BitVec 4
  failtMd : BitVec 2
  failtPc : BitVec 2
  failtPs : BitVec 2
  deriving DecidableEq, Repr

/-- A fault of the block with the info it records (60_exceptions.md R142). It is no stop of the machine: the block takes
it and accepts the next operation (R146, R147; entry 6). -/
inductive BlockFault
  | illegalOp
  | payloadLength (len : Nat)
  | frameLength (len : Nat)
  deriving DecidableEq, Repr

/-- What the last operation handed back to the host: its result, its fault, or the failure of a transport call made by a
command wrapper. MODEL's own field (entry 5). -/
inductive Reply
  | none
  | checksum (c : Byte)
  | validity (v : Bool)
  | frame (tx : List Byte)
  | triplets (tr : List Triplet)
  | word (w : Word)
  | mismatch (failt : BitVec 2)
  | float (r : Reading)
  | measurement (m : Measurement)
  | fault (f : BlockFault)
  | transportFailure
  deriving DecidableEq, Repr

/-- How one call of the transport ends (45_environment.md R110, R128). -/
inductive CallOutcome
  | returns
  | fails
  | hangs
  deriving DecidableEq, Repr

/-- The transport as the command wrappers meet it (45_environment.md R110): inputs placed from outside, the counters of the
free values that follow them, and the frames handed over. MODEL's own (entries 8, 9). -/
structure Transport where
  /-- Input: how the coming calls end, in order. -/
  calls : List CallOutcome
  /-- Input: the bytes the coming reads deliver, in order. -/
  inbox : List Byte
  /-- Argument of `Config.callSucceeds` for the next call past `calls`. -/
  freeCalls : Nat
  /-- Argument of `Config.sensorByte` for the next byte past `inbox`. -/
  freeBytes : Nat
  /-- The frames given to `write`, oldest first, each whole (92_eei_decisions.md D26). -/
  sent : List (List Byte)
  deriving DecidableEq, Repr

/-- Which result registers an operation has written since reset (10_state.md R24). MODEL's own (entry 4). -/
structure Written where
  rcrc : Bool
  v : Bool
  w : Bool
  /-- `FC` and `FQ`. -/
  float : Bool
  failt : Bool
  /-- `SBV_*`, `COMPLETE`, `FAILF_*`, `FAILT_*`. -/
  meas : Bool
  deriving DecidableEq, Repr

/-- What the host does next: start an operation, or apply the reset event (45_environment.md R131). -/
inductive HostEvent
  | start (r : Request)
  | reset
  deriving DecidableEq, Repr

structure State where
  /-- Working register `CRC` (10_state.md R12, R13). -/
  crc : Byte
  /-- Working register `D0` (R12). -/
  d0 : Byte
  /-- Working register `D1` (R12). -/
  d1 : Byte
  /-- Working register `DC` (R12). -/
  dc : Byte
  /-- Working register `IDX`, an unbounded natural (R12, R14). -/
  idx : Nat
  /-- Result register `RCRC` (R12). -/
  rcrc : Byte
  /-- Result flag `V` (R15). -/
  v : Bool
  /-- Result register `W` (R19). -/
  w : Word
  /-- Result register `FC` (R18). -/
  fc : FloatClass
  /-- Result register `FQ`, `Q_WIDTH` bits signed: an exact integer (R18; 00_scope.md R6). -/
  fq : Int
  /-- Result register `FAILT` of FIELD.PARSE (R20, 90_conflicts.md C9). -/
  failt : BitVec 2
  /-- Result registers of MEAS.PARSE (R15, R19, R20). -/
  meas : Measurement
  /-- Status register `ERR`, field `cause` 2:0 (R16). -/
  err : BitVec 3
  /-- MODEL's own: which result registers have been written (entry 4). -/
  written : Written
  /-- MODEL's own: what the last operation delivered (entry 5). -/
  reply : Reply
  /-- MODEL's own: the host's remaining events (70_reset_and_hazards.md R170; entry 1). -/
  pending : List HostEvent
  /-- MODEL's own: the model arguments of 00_scope.md R6 (entry 7). -/
  cfg : Config
  /-- MODEL's own: the transport behind the command wrappers (entries 8, 9). -/
  transport : Transport
  deriving DecidableEq, Repr

/-- A register the host can read (45_environment.md R131: "result registers and `ERR`"). -/
inductive ResultReg
  | err
  | rcrc
  | v
  | w
  | fc
  | fq
  | failt
  | mv (i : Fin 10)
  | sbvMd
  | sbvPc
  | sbvPs
  | complete
  | failfMd
  | failfPc
  | failfPs
  | failtMd
  | failtPc
  | failtPs
  deriving DecidableEq, Repr

/-- What a host read returns. -/
inductive RegValue
  | bits (width value : Nat)
  | count (q : Int)
  /-- An entry of `MV`; `none` is absent: there is no number to read (10_state.md R19). -/
  | entry (r : Option Reading)
  deriving DecidableEq, Repr

/-- The reasons the machine stops. The block's own faults are no stops (see `BlockFault`). -/
inductive Fault
  /-- Raised by the fifteen CMD meanings when a transport call they make never returns: "a hung transport hangs the active
  operation" (45_environment.md R128). Safe: nothing is proved of a state after it. -/
  | transportHung
  deriving DecidableEq, Repr

/-- The reasons something has no meaning. -/
inductive Refusal
  /-- Raised by no arm of this model: the host's form for an instruction without a meaning. Safe. -/
  | notModelled (mnemonic : String)
  /-- Raised by `step` when the request at the head of `pending` names no instruction (entry 2). Safe: the spec gives such
  operands no meaning. -/
  | badRequest (e : DecodeError)
  /-- Raised by `step` when the host has no further event: the run is over (70_reset_and_hazards.md R170). Safe. -/
  | endOfRun
  /-- Raised by `hostRead` on a result register no operation has written since reset (10_state.md R24). Safe. -/
  | readBeforeWrite (r : ResultReg)
  deriving DecidableEq, Repr

/-- MEAS.PARSE's registers after reset: `MV` all absent (10_state.md R23); the rest DESIGN CHOICE 0 (entry 3). -/
def Measurement.reset : Measurement where
  mv := Vector.replicate 10 none
  sbvMd := false
  sbvPc := false
  sbvPs := false
  complete := false
  failfMd := 0
  failfPc := 0
  failfPs := 0
  failtMd := 0
  failtPc := 0
  failtPs := 0

/-- The machine right after reset (10_state.md R23, 70_reset_and_hazards.md R161): `ERR` = 0 and `MV` all absent are the
spec's; the other registers are unspecified there and 0 here (DESIGN CHOICE, entry 3), and the host cannot read them. -/
def State.reset : State where
  crc := 0
  d0 := 0
  d1 := 0
  dc := 0
  idx := 0
  rcrc := 0
  v := false
  w := 0
  fc := .fin
  fq := 0
  failt := 0
  meas := Measurement.reset
  err := 0
  written := { rcrc := false, v := false, w := false, float := false, failt := false, meas := false }
  reply := .none
  pending := []
  cfg := Config.default
  transport := { calls := [], inbox := [], freeCalls := 0, freeBytes := 0, sent := [] }

end Sys2Proof.Machine
end

