-- ==== Sys2Proof/Machine/Flags.lean ====
section
/-! DEFINITION. Every flag and code the block computes: `V`, `FAILT`, `COMPLETE`, the fault codes of `ERR` and the codes of
`FC`. -/

namespace Sys2Proof.Machine

/-- `V` for a triplet (40_crc.md R75): its third byte equals the checksum of its first two. -/
def tripletValid (b0 b1 c : Byte) : Bool := crc8 b0 b1 = c

/-- `FAILT <- {1 - v1, 1 - v0}` (42_frame_parse.md R87): bit 0 the first triplet, bit 1 the second. -/
def failtOf (v0 v1 : Bool) : BitVec 2 := BitVec.ofBool (!v1) ++ BitVec.ofBool (!v0)

/-- `FAILF` of a sub-block without a failure (10_state.md R20). -/
def failfNone : BitVec 4 := 15

/-- `COMPLETE` (44_measurement.md R106). -/
def completeOf (md pc ps : Bool) : Bool := md && pc && ps

/-- The cause code of a fault (60_exceptions.md R142). -/
def faultCode : BlockFault → BitVec 3
  | .illegalOp => 1
  | .payloadLength _ => 2
  | .frameLength _ => 3

/-- `ERR` after a fault (10_state.md R16): the first cause is kept. -/
def errAfter (err : BitVec 3) (f : BlockFault) : BitVec 3 := if err = 0 then faultCode f else err

/-- The 2-bit code of `FC` (10_state.md R18). -/
def floatClassCode : FloatClass → BitVec 2
  | .fin => 0
  | .pinf => 1
  | .ninf => 2
  | .nan => 3

end Sys2Proof.Machine
end

