-- ==== Sys2Proof/Machine/Operands.lean ====
section
/-! DEFINITION. Operand forms: reading a frame's bytes (spec/00_scope.md section 5), the length checks (spec/20_memory.md R36)
and the fields of format S (spec/30_encoding.md R57). The big-endian word of four bytes is `wordOfBytes` in Decode.lean. -/

namespace Sys2Proof.Machine

/-- `MemRead(RX, off, n)` is `RX[off..off+n]` (00_scope.md section 5). -/
def memRead (rx : List Byte) (off n : Nat) : List Byte := (rx.drop off).take n

/-- `FIELD_LEN` (00_scope.md R5). -/
def fieldLen : Nat := 6

/-- `MEAS_LEN` (00_scope.md R5). -/
def measLen : Nat := 60

/-- Field `i` of a response: `RX[6i .. 6i+6]` (20_memory.md R35). -/
def fieldBytes (rx : List Byte) (i : Nat) : List Byte := memRead rx (fieldLen * i) fieldLen

/-- A length above a bound that is given (00_scope.md R6). -/
def exceeds (len : Nat) : Option Nat → Bool
  | none => false
  | some bound => bound < len

/-- The lengths FRAME.BUILD refuses (60_exceptions.md R142): odd, or above `MAX_PAYLOAD_LEN`. -/
def badPayloadLength (cfg : Config) (len : Nat) : Bool :=
  len % 2 ≠ 0 || exceeds len cfg.maxPayloadLen

/-- The lengths FRAME.PARSE refuses (60_exceptions.md R142): not whole strides, or above `MAX_RESPONSE_LEN`. -/
def badFrameLength (cfg : Config) (len : Nat) : Bool :=
  len % 3 ≠ 0 || exceeds len cfg.maxResponseLen

/-- `s = w[31]` (43_float_decode.md R90). -/
def signBit (w : Word) : Bool := w.getLsbD 31

/-- `E = w[30:23]` (43_float_decode.md R90). -/
def biasedExponent (w : Word) : Nat := (w.extractLsb' 23 8).toNat

/-- `M = w[22:0]` (43_float_decode.md R90). -/
def mantissa (w : Word) : Nat := (w.extractLsb' 0 23).toNat

end Sys2Proof.Machine
end

