-- ==== Sys2Proof/Machine/Ops.lean ====
section
/-! DEFINITION. The shared operations over the registers: taking a fault, one stride of the parser, one block of the
assembler, the transport calls of the command wrappers, the reset event, the host's read and the fetch of its next event.
There is no return from a fault to model (spec/60_exceptions.md R147). -/

namespace Sys2Proof.Machine

/-- Taking a fault (60_exceptions.md R146): `ERR` takes the code if it holds 0, the fault and its info go to the host, and
nothing else changes. -/
def takeFault (f : BlockFault) (s : State) : State :=
  { s with err := errAfter s.err f, reply := .fault f }

/-! ### Strides and blocks -/

/-- The registers after one stride (42_frame_parse.md R85): the triplet in `D0`, `D1`, `DC`, its checksum left in `CRC`, its
validity in `V`, `IDX` one stride on. -/
def stride (b0 b1 c : Byte) (s : State) : State :=
  { s with d0 := b0, d1 := b1, dc := c, crc := crc8 b0 b1, v := tripletValid b0 b1 c, idx := s.idx + 3,
           written := { s.written with v := true } }

/-- The loop of 42_frame_parse.md R85 on the registers: every stride, in input order, never stopping early (R86). -/
def afterStrides : List Byte → State → State
  | b0 :: b1 :: c :: rest, s => afterStrides rest (stride b0 b1 c s)
  | _, s => s

/-- The loop of 42_frame_parse.md R85 on the results: `TR`, one entry per stride, in input order. -/
def parseTriplets : List Byte → List Triplet
  | b0 :: b1 :: c :: rest => { b0 := b0, b1 := b1, valid := tripletValid b0 b1 c } :: parseTriplets rest
  | _ => []

/-- The registers after one data block (41_frame_build.md R80). -/
def buildBlock (b0 b1 : Byte) (s : State) : State :=
  { s with d0 := b0, d1 := b1, crc := crc8 b0 b1, idx := s.idx + 2 }

/-- The loop of 41_frame_build.md R80 on the registers. -/
def afterBlocks : List Byte → State → State
  | b0 :: b1 :: rest, s => afterBlocks rest (buildBlock b0 b1 s)
  | _, s => s

/-- The loop of 41_frame_build.md R80 on the frame: each data block followed by its checksum. -/
def frameBody : List Byte → List Byte
  | b0 :: b1 :: rest => b0 :: b1 :: crc8 b0 b1 :: frameBody rest
  | _ => []

/-- `TX` (41_frame_build.md R80; formats C0 and CP, 30_encoding.md R52, R53). -/
def frameOf (hi lo : Byte) (pay : List Byte) : List Byte := hi :: lo :: frameBody pay

/-- The result of the per-field step (42_frame_parse.md R87). -/
inductive FieldResult
  | word (w : Word)
  | mismatch (failt : BitVec 2)
  deriving DecidableEq, Repr

/-- The per-field step (42_frame_parse.md R87) through the one validation primitive (R88). A field has 6 bytes and so two
triplets; the last case is met by no field of 6 bytes. -/
def fieldResult (rx : List Byte) : FieldResult :=
  match parseTriplets rx with
  | [t0, t1] =>
    if t0.valid && t1.valid then .word (wordOfBytes t0.b0 t0.b1 t1.b0 t1.b1)
    else .mismatch (failtOf t0.valid t1.valid)
  | _ => .mismatch (failtOf false false)

/-! ### The transport of the command wrappers (45_environment.md R110; entries 8, 9) -/

/-- Whether the next call returns; past the outcomes placed in State it is a free value. -/
def callReturns (t : Transport) : Bool :=
  match t.calls with
  | c :: _ => c = .returns
  | [] => Config.callSucceeds t.freeCalls

/-- The transport after one call. -/
def afterCall (t : Transport) : Transport :=
  match t.calls with
  | _ :: cs => { t with calls := cs }
  | [] => { t with freeCalls := t.freeCalls + 1 }

/-- The next call, a `write`, never returns (45_environment.md R128). -/
def writeHangs (t : Transport) : Bool := t.calls.head? = some .hangs

/-- The next call, a `write`, returns, and the `read` after it never does (45_environment.md R128). -/
def readHangs (t : Transport) : Bool :=
  match t.calls with
  | .returns :: .hangs :: _ => true
  | _ => false

/-- `n` free bytes, the counter at `k`. -/
def freeBytesFrom (k n : Nat) : List Byte := (List.range n).map fun j => Config.sensorByte (k + j)

/-- The `n` bytes a `read(n)` that returns delivers: the inbox's, then free ones. -/
def readBytes (t : Transport) (n : Nat) : List Byte :=
  t.inbox.take n ++ freeBytesFrom t.freeBytes (n - t.inbox.length)

/-- `write(TX)`: the frame whole, in one call (92_eei_decisions.md D26); a failure propagates to the caller
(60_exceptions.md R140 (b)). -/
def transportWrite (tx : List Byte) (s : State) : State :=
  if callReturns s.transport then
    { s with transport := { afterCall s.transport with sent := s.transport.sent ++ [tx] } }
  else { s with transport := afterCall s.transport, reply := .transportFailure }

/-- `RX <- read(n)`, then `parse RX`; a failure propagates to the caller (60_exceptions.md R140 (b)). -/
def transportRead (n : Nat) (parse : List Byte → State → State) (s : State) : State :=
  if callReturns s.transport then
    parse (readBytes s.transport n)
      { s with transport :=
          { afterCall s.transport with
            inbox := s.transport.inbox.drop n
            freeBytes := s.transport.freeBytes + (n - s.transport.inbox.length) } }
  else { s with transport := afterCall s.transport, reply := .transportFailure }

/-! ### The host's other dealings with the block (45_environment.md R131) -/

/-- The reset event (70_reset_and_hazards.md R161): every register at its value after reset. The host's remaining events, the
model arguments and the transport are not the block's. -/
def resetEvent (s : State) : State :=
  { State.reset with pending := s.pending, cfg := s.cfg, transport := s.transport }

/-- Whether the host may read a register (10_state.md R24, R131): `ERR` and `MV` always (R23 gives both a value after reset),
a result register once an operation has written it. -/
def readable (r : ResultReg) (w : Written) : Bool :=
  match r with
  | .err | .mv _ => true
  | .rcrc => w.rcrc
  | .v => w.v
  | .w => w.w
  | .fc | .fq => w.float
  | .failt => w.failt
  | .sbvMd | .sbvPc | .sbvPs | .complete | .failfMd | .failfPc | .failfPs | .failtMd | .failtPc | .failtPs => w.meas

/-- A 1-bit register as a value. -/
def flagValue (b : Bool) : RegValue := .bits 1 b.toNat

/-- What a register holds. -/
def registerValue (r : ResultReg) (s : State) : RegValue :=
  match r with
  | .err => .bits 3 s.err.toNat
  | .rcrc => .bits 8 s.rcrc.toNat
  | .v => flagValue s.v
  | .w => .bits 32 s.w.toNat
  | .fc => .bits 2 (floatClassCode s.fc).toNat
  | .fq => .count s.fq
  | .failt => .bits 2 s.failt.toNat
  | .mv i => .entry s.meas.mv[i]
  | .sbvMd => flagValue s.meas.sbvMd
  | .sbvPc => flagValue s.meas.sbvPc
  | .sbvPs => flagValue s.meas.sbvPs
  | .complete => flagValue s.meas.complete
  | .failfMd => .bits 4 s.meas.failfMd.toNat
  | .failfPc => .bits 4 s.meas.failfPc.toNat
  | .failfPs => .bits 4 s.meas.failfPs.toNat
  | .failtMd => .bits 2 s.meas.failtMd.toNat
  | .failtPc => .bits 2 s.meas.failtPc.toNat
  | .failtPs => .bits 2 s.meas.failtPs.toNat

/-- A host read (45_environment.md R131), refused before the first write (10_state.md R24). It changes nothing. -/
def hostRead (r : ResultReg) (s : State) : Host.Outcome RegValue Fault Refusal :=
  if readable r s.written then .next (registerValue r s) else .refused (.readBeforeWrite r)

/-- The host's next event, and the state once it is taken off the list (70_reset_and_hazards.md R170). -/
def fetch (s : State) : Option (HostEvent × State) :=
  match s.pending with
  | [] => none
  | e :: rest => some (e, { s with pending := rest })

/-- `s` with a request placed where `fetch` takes its next event. -/
def placeRequest (r : Request) (s : State) : State := { s with pending := .start r :: s.pending }

end Sys2Proof.Machine
end

