-- ==== Sys2Proof/Machine/Frame.lean ====
section
/-! DEFINITION. FRAME.BUILD (spec/41_frame_build.md R80), FRAME.PARSE and FIELD.PARSE (spec/42_frame_parse.md R85, R87), each
as an operation on the state that the command wrappers share. -/

namespace Sys2Proof.Machine

/-- FRAME.BUILD on a payload, empty when absent (41_frame_build.md R80). -/
def buildFrame (hi lo : Byte) (pay : List Byte) (s : State) : State :=
  if badPayloadLength s.cfg pay.length then takeFault (.payloadLength pay.length) s
  else { afterBlocks pay { s with idx := 0 } with reply := .frame (frameOf hi lo pay) }

/-- FRAME.PARSE (42_frame_parse.md R85). -/
def parseFrame (rx : List Byte) (s : State) : State :=
  if badFrameLength s.cfg rx.length then takeFault (.frameLength rx.length) s
  else { afterStrides rx { s with idx := 0 } with reply := .triplets (parseTriplets rx) }

/-- What FIELD.PARSE delivers, on the registers after its strides (42_frame_parse.md R87): `FAILT` always, `W` only when both
triplets are valid. -/
def deliverField (r : FieldResult) (s : State) : State :=
  match r with
  | .word w =>
    { s with failt := failtOf true true, w := w, written := { s.written with failt := true, w := true }, reply := .word w }
  | .mismatch t => { s with failt := t, written := { s.written with failt := true }, reply := .mismatch t }

/-- FIELD.PARSE (42_frame_parse.md R87). -/
def parseField (rx : List Byte) (s : State) : State :=
  if rx.length ≠ fieldLen then takeFault (.frameLength rx.length) s
  else deliverField (fieldResult rx) (afterStrides rx { s with idx := 0 })

/-- FRAME.BUILD; "an absent payload and an empty payload are the same operand" (41_frame_build.md R80). -/
def execFrameBuild (hi lo : Byte) (pay : Option (List Byte)) (s : State) : Host.Outcome State Fault Refusal :=
  .next (buildFrame hi lo (pay.getD []) s)

/-- FRAME.PARSE (42_frame_parse.md R85). -/
def execFrameParse (rx : List Byte) (s : State) : Host.Outcome State Fault Refusal := .next (parseFrame rx s)

/-- FIELD.PARSE (42_frame_parse.md R87). -/
def execFieldParse (rx : List Byte) (s : State) : Host.Outcome State Fault Refusal := .next (parseField rx s)

end Sys2Proof.Machine
end

