-- ==== Sys2Proof/Machine/Float.lean ====
section
/-! DEFINITION. The float decoder, FLOAT.DECODE (spec/43_float_decode.md R90 to R95). The exact value of a word is carried as
a fraction of integers, 1000 times the value being `thousandthsNum w / thousandthsDen w`. -/

namespace Sys2Proof.Machine

/-- The numerator of `1000 * v`, with `v = (-1)^s * (2^23 + M) * 2^(E - 150)` for every `E` below 255 (43_float_decode.md R91,
R92, R95); the power is in the denominator when `E < 150`. -/
def thousandthsNum (w : Word) : Int :=
  let magnitude : Nat := 1000 * (2 ^ 23 + mantissa w) * 2 ^ (biasedExponent w - 150)
  if signBit w then -(magnitude : Int) else magnitude

/-- The denominator of `1000 * v`. -/
def thousandthsDen (w : Word) : Nat := 2 ^ (150 - biasedExponent w)

/-- A tie between `f` and `f + 1` (43_float_decode.md R94: to the even one; the other rules are those of `TieRule`). -/
def breakTie (tie : TieRule) (num f : Int) : Int :=
  match tie with
  | .halfEven => if f % 2 = 0 then f else f + 1
  | .halfUp => f + 1
  | .halfAway => if num < 0 then f else f + 1

/-- `round3` (43_float_decode.md R94) of a value given as `1000 * v = num / den`. -/
def round3 (tie : TieRule) (num : Int) (den : Nat) : Int :=
  let f := num / den
  let r := num % den
  if 2 * r > den then f + 1
  else if 2 * r < den then f
  else breakTie tie num f

/-- The class of a word with `E` = 255 (43_float_decode.md R93). -/
def specialClass (w : Word) : FloatClass :=
  if mantissa w ≠ 0 then .nan else if signBit w then .ninf else .pinf

/-- The decoder (43_float_decode.md R95). -/
def decodeFloat (tie : TieRule) (w : Word) : Reading :=
  if biasedExponent w = 255 then { cls := specialClass w, q := 0 }
  else { cls := .fin, q := round3 tie (thousandthsNum w) (thousandthsDen w) }

/-- FLOAT.DECODE (43_float_decode.md R95, R96). -/
def execFloatDecode (w : Word) (s : State) : Host.Outcome State Fault Refusal :=
  let r := decodeFloat s.cfg.tieRule w
  .next { s with fc := r.cls, fq := r.q, written := { s.written with float := true }, reply := .float r }

end Sys2Proof.Machine
end

