-- ==== Sys2Proof/Machine/Measurement.lean ====
section
/-! DEFINITION. The measurement parser, MEAS.PARSE (spec/44_measurement.md R100 to R108). -/

namespace Sys2Proof.Machine

/-- What a sub-block reports: its validity flag, `FAILF` and `FAILT` (10_state.md R15, R20). -/
structure SubBlockReport where
  valid : Bool
  failf : BitVec 4
  failt : BitVec 2
  deriving DecidableEq, Repr

/-- The scan of the `count` fields from field `i` on (44_measurement.md R103): the first field that has an invalid triplet is
reported, and the fields after it are not examined. -/
def scanReport (rx : List Byte) : Nat → Nat → SubBlockReport
  | 0, _ => { valid := true, failf := failfNone, failt := 0 }
  | count + 1, i =>
    match fieldResult (fieldBytes rx i) with
    | .word _ => scanReport rx count (i + 1)
    | .mismatch t => { valid := false, failf := BitVec.ofNat 4 i, failt := t }

/-- The same scan on the registers (44_measurement.md R107): each examined field is parsed from its first byte, `IDX` counting
from there (10_state.md R14), and `W` takes each word assembled. -/
def scanRegisters (rx : List Byte) : Nat → Nat → State → State
  | 0, _, s => s
  | count + 1, i, s =>
    let s' := afterStrides (fieldBytes rx i) { s with idx := fieldLen * i }
    match fieldResult (fieldBytes rx i) with
    | .word w => scanRegisters rx count (i + 1) { s' with w := w, written := { s'.written with w := true } }
    | .mismatch _ => s'

/-- The sub-blocks (44_measurement.md R101): mass density, fields 0 to 3. -/
def reportMd (rx : List Byte) : SubBlockReport := scanReport rx 4 0

/-- Particle count, fields 4 to 8 (44_measurement.md R101). -/
def reportPc (rx : List Byte) : SubBlockReport := scanReport rx 5 4

/-- Particle size, field 9 (44_measurement.md R101). -/
def reportPs (rx : List Byte) : SubBlockReport := scanReport rx 1 9

/-- The report of the sub-block that field `i` belongs to (44_measurement.md R101). -/
def reportOfField (rx : List Byte) (i : Nat) : SubBlockReport :=
  if i < 4 then reportMd rx else if i < 9 then reportPc rx else reportPs rx

/-- `MV[i]` (44_measurement.md R103, R107): the decoded word of field `i`, present only if its sub-block is valid. -/
def measuredValue (tie : TieRule) (rx : List Byte) (i : Nat) : Option Reading :=
  if (reportOfField rx i).valid then
    match fieldResult (fieldBytes rx i) with
    | .word w => some (decodeFloat tie w)
    | .mismatch _ => none
  else none

/-- The result of MEAS.PARSE on a frame of 60 bytes (44_measurement.md R107). -/
def measurementOf (tie : TieRule) (rx : List Byte) : Measurement where
  mv := Vector.ofFn fun i => measuredValue tie rx i.val
  sbvMd := (reportMd rx).valid
  sbvPc := (reportPc rx).valid
  sbvPs := (reportPs rx).valid
  complete := completeOf (reportMd rx).valid (reportPc rx).valid (reportPs rx).valid
  failfMd := (reportMd rx).failf
  failfPc := (reportPc rx).failf
  failfPs := (reportPs rx).failf
  failtMd := (reportMd rx).failt
  failtPc := (reportPc rx).failt
  failtPs := (reportPs rx).failt

/-- The working registers after the three sub-blocks, in the order MD, PC, PS (44_measurement.md R104). -/
def measureRegisters (rx : List Byte) (s : State) : State :=
  scanRegisters rx 1 9 (scanRegisters rx 5 4 (scanRegisters rx 4 0 s))

/-- MEAS.PARSE (44_measurement.md R107). -/
def parseMeasurement (rx : List Byte) (s : State) : State :=
  if rx.length ≠ measLen then takeFault (.frameLength rx.length) s
  else
    let m := measurementOf s.cfg.tieRule rx
    let s' := measureRegisters rx s
    { s' with meas := m, written := { s'.written with meas := true }, reply := .measurement m }

/-- MEAS.PARSE (44_measurement.md R107). -/
def execMeasParse (rx : List Byte) (s : State) : Host.Outcome State Fault Refusal := .next (parseMeasurement rx s)

end Sys2Proof.Machine
end

