-- ==== Sys2Proof/Machine/Command.lean ====
section
/-! DEFINITION. The fifteen command wrappers CMD.* (spec/30_encoding.md R63): each builds its frame, writes it to the
transport and, where its row has a response, reads that many bytes and parses them. The rows are those of the machine's command
table; the docstrings below give R63's expansion, which is the one under the table as printed. -/

namespace Sys2Proof.Machine

/-- `write TX`; then, for a response of `n` bytes, `read n` and `parse RX` (30_encoding.md R63, where a command of response
length 0 has no read). After a failed write nothing is read (60_exceptions.md R140 (b); DEDUCED, entry 10). -/
def exchange (tx : List Byte) (n : Nat) (parse : List Byte → State → State) (s : State) : State :=
  if n ≠ 0 && callReturns s.transport then transportRead n parse (transportWrite tx s) else transportWrite tx s

/-- A wrapper (30_encoding.md R63): "one FRAME.BUILD, a transport write, a transport read of the response length", and one
parse, with the code and the response length of its row (R58). A frame the assembler refuses is not written (DEDUCED, entry
10); a response length that is not stated is not read (entry 11). -/
def runCommand (row : CommandRow) (pay : List Byte) (parse : List Byte → State → State) (s : State) :
    Host.Outcome State Fault Refusal :=
  let b := buildFrame row.hi row.lo pay s
  let n := row.response.getD 0
  match b.reply with
  | .frame tx =>
    if writeHangs b.transport || (n ≠ 0 && readHangs b.transport) then .fault .transportHung
    else .next (exchange tx n parse b)
  | _ => .next b

/-- The wrapper of a row with the payload the table gives it (30_encoding.md R58). -/
def runRow (row : CommandRow) (parse : List Byte → State → State) (s : State) : Host.Outcome State Fault Refusal :=
  runCommand row row.payload parse s

/-- CMD.START_MEASUREMENT: `FRAME.BUILD D0, 10, [03 00]`; write `TX` (30_encoding.md R63). -/
def execCmdStartMeasurement (s : State) : Host.Outcome State Fault Refusal :=
  runRow s.cfg.commands.startMeasurement parseFrame s

/-- CMD.STOP_MEASUREMENT: `FRAME.BUILD 01, 04`; write `TX` (30_encoding.md R63). -/
def execCmdStopMeasurement (s : State) : Host.Outcome State Fault Refusal :=
  runRow s.cfg.commands.stopMeasurement parseFrame s

/-- CMD.READ_DATA_READY: `FRAME.BUILD 02, 02`; write `TX`; read 3; `FRAME.PARSE RX` (30_encoding.md R63). -/
def execCmdReadDataReady (s : State) : Host.Outcome State Fault Refusal := runRow s.cfg.commands.readDataReady parseFrame s

/-- CMD.READ_MEASUREMENT: `FRAME.BUILD 03, 00`; write `TX`; read 60; `MEAS.PARSE RX` (30_encoding.md R63). -/
def execCmdReadMeasurement (s : State) : Host.Outcome State Fault Refusal :=
  runRow s.cfg.commands.readMeasurement parseMeasurement s

/-- CMD.SLEEP: `FRAME.BUILD 10, 01`; write `TX` (30_encoding.md R63). -/
def execCmdSleep (s : State) : Host.Outcome State Fault Refusal := runRow s.cfg.commands.sleep parseFrame s

/-- CMD.WAKEUP: `FRAME.BUILD 11, 03`; write `TX` (30_encoding.md R63). -/
def execCmdWakeup (s : State) : Host.Outcome State Fault Refusal := runRow s.cfg.commands.wakeup parseFrame s

/-- CMD.START_FAN_CLEANING: `FRAME.BUILD 56, 07`; write `TX` (30_encoding.md R63). -/
def execCmdStartFanCleaning (s : State) : Host.Outcome State Fault Refusal :=
  runRow s.cfg.commands.startFanCleaning parseFrame s

/-- CMD.READ_AUTOCLEAN: `FRAME.BUILD 80, 04`; write `TX`; read 6; `FIELD.PARSE RX` (30_encoding.md R63). -/
def execCmdReadAutoclean (s : State) : Host.Outcome State Fault Refusal := runRow s.cfg.commands.readAutoclean parseField s

/-- CMD.WRITE_AUTOCLEAN `s`: `FRAME.BUILD 80, 04, [s[31:24] s[23:16] s[15:8] s[7:0]]`; write `TX` (30_encoding.md R63). -/
def execCmdWriteAutoclean (seconds : Word) (s : State) : Host.Outcome State Fault Refusal :=
  runCommand s.cfg.commands.writeAutoclean (bytesOfWord seconds) parseFrame s

/-- CMD.PRODUCT_TYPE: `FRAME.BUILD D0, 02`; write `TX`; read 12; `FRAME.PARSE RX` (30_encoding.md R63). -/
def execCmdProductType (s : State) : Host.Outcome State Fault Refusal := runRow s.cfg.commands.productType parseFrame s

/-- CMD.SERIAL_NUMBER: `FRAME.BUILD D0, 33`; write `TX`; read 48; `FRAME.PARSE RX` (30_encoding.md R63). -/
def execCmdSerialNumber (s : State) : Host.Outcome State Fault Refusal := runRow s.cfg.commands.serialNumber parseFrame s

/-- CMD.FIRMWARE_VERSION: `FRAME.BUILD D1, 00`; write `TX`; read 3; `FRAME.PARSE RX` (30_encoding.md R63). -/
def execCmdFirmwareVersion (s : State) : Host.Outcome State Fault Refusal :=
  runRow s.cfg.commands.firmwareVersion parseFrame s

/-- CMD.READ_STATUS: `FRAME.BUILD D2, 06`; write `TX`; read 6; `FIELD.PARSE RX` (30_encoding.md R63). -/
def execCmdReadStatus (s : State) : Host.Outcome State Fault Refusal := runRow s.cfg.commands.readStatus parseField s

/-- CMD.CLEAR_STATUS: `FRAME.BUILD D2, 10`; write `TX` (30_encoding.md R63). -/
def execCmdClearStatus (s : State) : Host.Outcome State Fault Refusal := runRow s.cfg.commands.clearStatus parseFrame s

/-- CMD.RESET: `FRAME.BUILD D3, 04`; write `TX` (30_encoding.md R63). It resets the sensor, not the block
(70_reset_and_hazards.md R162). -/
def execCmdReset (s : State) : Host.Outcome State Fault Refusal := runRow s.cfg.commands.reset parseFrame s

end Sys2Proof.Machine
end

