-- ==== Sys2Proof/Machine/Crc.lean ====
section
/-! DEFINITION. CRC.COMPUTE and CRC.VALIDATE (spec/40_crc.md R74, R75). -/

namespace Sys2Proof.Machine

/-- CRC.COMPUTE (40_crc.md R74). -/
def execCrcCompute (b0 b1 : Byte) (s : State) : Host.Outcome State Fault Refusal :=
  .next { s with d0 := b0, d1 := b1, crc := crc8 b0 b1, rcrc := crc8 b0 b1,
                 written := { s.written with rcrc := true }, reply := .checksum (crc8 b0 b1) }

/-- CRC.VALIDATE (40_crc.md R75). `RCRC` is not written. -/
def execCrcValidate (b0 b1 c : Byte) (s : State) : Host.Outcome State Fault Refusal :=
  .next { s with d0 := b0, d1 := b1, dc := c, crc := crc8 b0 b1, v := tripletValid b0 b1 c,
                 written := { s.written with v := true }, reply := .validity (tripletValid b0 b1 c) }

end Sys2Proof.Machine
end

