-- ==== Sys2Proof/Machine/Reserved.lean ====
section
/-! DEFINITION. RESERVED.0 (spec/30_encoding.md R60). -/

namespace Sys2Proof.Machine

/-- RESERVED.0: "selecting it raises the fault IllegalOp and does nothing else" (30_encoding.md R60). -/
def execReserved0 (s : State) : Host.Outcome State Fault Refusal := .next (takeFault .illegalOp s)

end Sys2Proof.Machine
end

