-- ==== Sys2Proof/Machine/Dispatch.lean ====
section
/-! DEFINITION. The dispatch: one arm per instruction, each one direct call of its meaning. -/

namespace Sys2Proof.Machine

def exec (i : Instr) (s : State) : Host.Outcome State Fault Refusal :=
  match i with
  | .reserved0 => Sys2Proof.Machine.execReserved0 s
  | .crcCompute b0 b1 => Sys2Proof.Machine.execCrcCompute b0 b1 s
  | .crcValidate b0 b1 c => Sys2Proof.Machine.execCrcValidate b0 b1 c s
  | .frameBuild hi lo pay => Sys2Proof.Machine.execFrameBuild hi lo pay s
  | .frameParse rx => Sys2Proof.Machine.execFrameParse rx s
  | .fieldParse rx => Sys2Proof.Machine.execFieldParse rx s
  | .floatDecode w => Sys2Proof.Machine.execFloatDecode w s
  | .measParse rx => Sys2Proof.Machine.execMeasParse rx s
  | .cmdStartMeasurement => Sys2Proof.Machine.execCmdStartMeasurement s
  | .cmdStopMeasurement => Sys2Proof.Machine.execCmdStopMeasurement s
  | .cmdReadDataReady => Sys2Proof.Machine.execCmdReadDataReady s
  | .cmdReadMeasurement => Sys2Proof.Machine.execCmdReadMeasurement s
  | .cmdSleep => Sys2Proof.Machine.execCmdSleep s
  | .cmdWakeup => Sys2Proof.Machine.execCmdWakeup s
  | .cmdStartFanCleaning => Sys2Proof.Machine.execCmdStartFanCleaning s
  | .cmdReadAutoclean => Sys2Proof.Machine.execCmdReadAutoclean s
  | .cmdWriteAutoclean seconds => Sys2Proof.Machine.execCmdWriteAutoclean seconds s
  | .cmdProductType => Sys2Proof.Machine.execCmdProductType s
  | .cmdSerialNumber => Sys2Proof.Machine.execCmdSerialNumber s
  | .cmdFirmwareVersion => Sys2Proof.Machine.execCmdFirmwareVersion s
  | .cmdReadStatus => Sys2Proof.Machine.execCmdReadStatus s
  | .cmdClearStatus => Sys2Proof.Machine.execCmdClearStatus s
  | .cmdReset => Sys2Proof.Machine.execCmdReset s

end Sys2Proof.Machine
end

