-- ==== Sys2Proof/Machine/Step.lean ====
section
/-! DEFINITION. One step: the host's next event (spec/70_reset_and_hazards.md R170, spec/45_environment.md R131; entry 1). -/

namespace Sys2Proof.Machine

/-- One step takes the host's next event off the list: a reset event resets the block; a request is decoded, under the
machine's command table, and its operation performed whole (00_scope.md R3). -/
def step (s : State) : Host.Outcome State Fault Refusal :=
  match fetch s with
  | none => .refused .endOfRun
  | some (.reset, s') => .next (resetEvent s')
  | some (.start r, s') =>
    match decode s'.cfg.commands r with
    | .ok i => exec i s'
    | .error e => .refused (.badRequest e)

/-- `s` with the instruction of an opcode-table word as the host's next event. The block fetches nothing by itself: the host
selects what runs next (10_state.md R14; entry 1). -/
def State.withFetchWord (s : State) (nbits w : Nat) : State :=
  match requestOfTableWord nbits w with
  | some r => placeRequest r s
  | none => s

end Sys2Proof.Machine
end

