-- ==== Sys2Proof/Machine/Environment.lean ====
section
/-! DEFINITION. What the host makes of what the block delivers (spec/45_environment.md). These are functions of the host, not
of the block: no step calls them (the host's software is outside the scope of spec/00_scope.md section 3). What the source
leaves open there is an argument, or is settled and marked where it stands (entry 16). -/

namespace Sys2Proof.Machine

/-- A Sample as the consumer gets it: the decoded values in field order, or the empty Sample. What an empty Sample looks like
is open (91_not_in_source.md N23, 93_implementation_defined.md U20); here it is `none`, which says only that there are no
values (DESIGN CHOICE, entry 16). -/
abbrev Sample := Option (List Reading)

/-- The Sample published for a measurement (45_environment.md R119, 70_reset_and_hazards.md R167): the ten values when
`COMPLETE` = 1, and the empty Sample (`none`: DESIGN CHOICE, entry 16) otherwise, even when some sub-block is valid. -/
def publishedSample (m : Measurement) : Sample :=
  if m.complete then some (m.mv.toList.filterMap id) else none

/-- What a command-level call returns to its caller (45_environment.md R111, 60_exceptions.md R140). -/
inductive CallResult
  | done
  | data (bytes : List Byte)
  | word (w : Word)
  | sample (values : Sample)
  | checksumMismatch
  | fault (f : BlockFault)
  | transportFailure
  deriving DecidableEq, Repr

/-- What a value of `MV` measures (44_measurement.md R101, R102). -/
inductive Quantity
  | massDensity
  | particleCount
  | particleSize
  deriving DecidableEq, Repr

/-- The name the host attaches to each entry of `MV`: its quantity and, where it has one, its fraction (44_measurement.md
R102). -/
def fieldNames : List (Quantity × Option String) :=
  [(.massDensity, some "pm1.0"), (.massDensity, some "pm2.5"), (.massDensity, some "pm4.0"), (.massDensity, some "pm10"),
   (.particleCount, some "pm0.5"), (.particleCount, some "pm1.0"), (.particleCount, some "pm2.5"),
   (.particleCount, some "pm4.0"), (.particleCount, some "pm10"), (.particleSize, none)]

/-- The unit the host attaches (44_measurement.md R102, 45_environment.md R125). -/
def unitOf : Quantity → String
  | .massDensity => "ug/m3"
  | .particleCount => "#/cm3"
  | .particleSize => "um"

/-- The data bytes of a list of triplets, in order (45_environment.md R112). -/
def tripletData (tr : List Triplet) : List Byte := tr.flatMap fun t => [t.b0, t.b1]

/-- What a command-level call returns. "Any single checksum failure surfaces as an explicit "checksum mismatch" result for that
call" (45_environment.md R111): the data bytes of an invalid triplet are never used (70_reset_and_hazards.md R166). The spec
names no call that ends in no reply, a checksum, a validity or one decoded float, and does not say what a call without a
response (a frame) returns; what those five give is the model's (DESIGN CHOICE, entry 16): nothing, the checksum as one data
byte, nothing or a mismatch, a Sample of that one reading, and nothing. For a measurement it is the Sample of R119, empty when a
triplet is invalid, and not R111's mismatch: the Driver's operations R111 names have no measurement read (DESIGN CHOICE, entry
16). -/
def callResult : Reply → CallResult
  | .none => .done
  | .checksum c => .data [c]
  | .validity v => if v then .done else .checksumMismatch
  | .frame _ => .done
  | .triplets tr => if tr.all (·.valid) then .data (tripletData tr) else .checksumMismatch
  | .word w => .word w
  | .mismatch _ => .checksumMismatch
  | .float r => .sample (some [r])
  | .measurement m => .sample (publishedSample m)
  | .fault f => .fault f
  | .transportFailure => .transportFailure

/-- Depth of the handoff buffer (45_environment.md R120). -/
def handoffDepth : Nat := 20

/-- Publishing into the handoff buffer, oldest first (45_environment.md R120): at capacity the oldest entry is dropped. -/
def publish {α : Type} (ring : List α) (x : α) : List α :=
  if ring.length < handoffDepth then ring ++ [x] else ring.tail ++ [x]

/-- The most recent entry of the handoff buffer, or none; it takes nothing out. -/
def latest {α : Type} (ring : List α) : Option α := ring.getLast?

/-- `getMeasurement` (45_environment.md R123): the most recent Sample, or an empty Sample when nothing has been published. -/
def getMeasurement (ring : List Sample) : Sample := (latest ring).getD none

/-- The interval written for `days` days, in seconds (45_environment.md R114). -/
def intervalSeconds (days : Nat) : Nat := days * 86400

/-- The three fault flags of the sensor's status register (45_environment.md R113); the bit positions, counted from the least
significant bit, are open (92_eei_decisions.md D31). -/
def statusFlags (speedBit laserBit fanBit : Nat) (w : Word) : Bool × Bool × Bool :=
  (w.getLsbD speedBit, w.getLsbD laserBit, w.getLsbD fanBit)

/-- The data-ready test (45_environment.md R115); which byte and which value mean ready is open (`READY`, 92_eei_decisions.md
D30). `none`: the response is no single valid triplet. -/
def dataReady (ready : Byte → Byte → Bool) : Reply → Option Bool
  | .triplets [t] => if t.valid then some (ready t.b0 t.b1) else none
  | _ => none

end Sys2Proof.Machine
end

