-- ==== Sys2Proof/Safety.lean ====
section
/-! DEFINITION. The terms claims are made in: good runs and their premises (spec/70_reset_and_hazards.md R170, R171), the
invariant of the registers, and reference forms of the checksum and of a word's value written independently of the machine's
own, straight from spec/40_crc.md and spec/43_float_decode.md. -/

namespace Sys2Proof

open Machine

/-! ### Runs (70_reset_and_hazards.md R170, R171) -/

/-- `FreshReset`: the state is the reset state, whatever the host has lined up and the model arguments are. -/
abbrev FreshReset (s : State) : Prop :=
  s = { State.reset with pending := s.pending, cfg := s.cfg, transport := s.transport }

/-- `NoFault`: `ERR` = 0. At the end of a run it says that the run has not gone wrong (R170). -/
abbrev NoFault (s : State) : Prop := s.err = 0

/-- What a command wrapper is made of (30_encoding.md R63): its row of the command table, the payload of its frame and the
operation that parses its response. -/
structure Expansion where
  row : CommandRow
  payload : List Byte
  parse : List Byte → Instr

/-- R63's table, under a command table; the block's own operations are no wrappers. -/
def expansion (t : CommandTable) : Instr → Option Expansion
  | .reserved0 | .crcCompute .. | .crcValidate .. | .frameBuild .. | .frameParse .. | .fieldParse .. | .floatDecode ..
  | .measParse .. => none
  | .cmdStartMeasurement => some ⟨t.startMeasurement, t.startMeasurement.payload, .frameParse⟩
  | .cmdStopMeasurement => some ⟨t.stopMeasurement, t.stopMeasurement.payload, .frameParse⟩
  | .cmdReadDataReady => some ⟨t.readDataReady, t.readDataReady.payload, .frameParse⟩
  | .cmdReadMeasurement => some ⟨t.readMeasurement, t.readMeasurement.payload, .measParse⟩
  | .cmdSleep => some ⟨t.sleep, t.sleep.payload, .frameParse⟩
  | .cmdWakeup => some ⟨t.wakeup, t.wakeup.payload, .frameParse⟩
  | .cmdStartFanCleaning => some ⟨t.startFanCleaning, t.startFanCleaning.payload, .frameParse⟩
  | .cmdReadAutoclean => some ⟨t.readAutoclean, t.readAutoclean.payload, .fieldParse⟩
  | .cmdWriteAutoclean seconds => some ⟨t.writeAutoclean, bytesOfWord seconds, .frameParse⟩
  | .cmdProductType => some ⟨t.productType, t.productType.payload, .frameParse⟩
  | .cmdSerialNumber => some ⟨t.serialNumber, t.serialNumber.payload, .frameParse⟩
  | .cmdFirmwareVersion => some ⟨t.firmwareVersion, t.firmwareVersion.payload, .frameParse⟩
  | .cmdReadStatus => some ⟨t.readStatus, t.readStatus.payload, .fieldParse⟩
  | .cmdClearStatus => some ⟨t.clearStatus, t.clearStatus.payload, .frameParse⟩
  | .cmdReset => some ⟨t.reset, t.reset.payload, .frameParse⟩

/-- `WholeFrame(c)` (R165, R171): `rx` is exactly the bytes of the response to command `c`, and has the length its row of the
command table gives. What the sensor answers to each command, `answer`, is outside the spec and so an argument. -/
def WholeFrame (t : CommandTable) (answer : Instr → List Byte) (c : Instr) (rx : List Byte) : Prop :=
  rx = answer c ∧ ∃ e, expansion t c = some e ∧ e.row.response = some rx.length

/-- `FloatMode` (45_environment.md R116, R171): the sensor was started with selector 0x03, that is, the payload of the start
command begins with it and its frame was handed to the transport. DESIGN CHOICE (entry 20): it stays true after a later stop,
sleep or reset frame, since what the sensor does on those is not stated (91_not_in_source.md N30). `Serial` (R171) holds by
construction: a step is one whole operation. -/
def FloatMode (s : State) : Prop :=
  let row := s.cfg.commands.startMeasurement
  row.payload.head? = some 0x03 ∧ frameOf row.hi row.lo row.payload ∈ s.transport.sent

/-- The reset state with a list of host events before it: the start of a run (R170). -/
def startOfRun (events : List HostEvent) : State := { State.reset with pending := events }

/-- The block's own operations (30_encoding.md R50, with the reserved code): the eight OP rows of the opcode table. -/
def isOperation : Instr → Bool
  | .reserved0 | .crcCompute .. | .crcValidate .. | .frameBuild .. | .frameParse .. | .fieldParse .. | .floatDecode ..
  | .measParse .. => true
  | _ => false

/-- A length no bound that is given excludes (00_scope.md R6). -/
abbrev Within (len : Nat) (bound : Option Nat) : Prop := ∀ b, bound = some b → len ≤ b

/-! ### The invariant of the registers -/

/-- A decoded value: no number outside class FIN, and within 139 bits of two's complement (10_state.md R18; 43_float_decode.md
section 4). -/
abbrev ReadingOk (r : Reading) : Prop := (r.cls ≠ .fin → r.q = 0) ∧ |r.q| < 2 ^ 138

/-- The report of a sub-block of `count` fields from field `first` on (10_state.md R20). -/
abbrev SubBlockOk (first count : Nat) (valid : Bool) (failf : BitVec 4) (failt : BitVec 2) : Prop :=
  if valid then failf = 15 ∧ failt = 0
  else first ≤ failf.toNat ∧ failf.toNat < first + count ∧ failt ≠ 0

/-- The validity flag of the sub-block of field `i` (44_measurement.md R101). -/
def flagOfField (m : Measurement) (i : Nat) : Bool :=
  if i < 4 then m.sbvMd else if i < 9 then m.sbvPc else m.sbvPs

/-- The registers of MEAS.PARSE agree with one another: `COMPLETE` (R15), the failure reports (R20), and an entry of `MV` is
present exactly when its sub-block's flag is 1 (R19). -/
abbrev MeasurementOk (m : Measurement) : Prop :=
  m.complete = (m.sbvMd && m.sbvPc && m.sbvPs) ∧
  SubBlockOk 0 4 m.sbvMd m.failfMd m.failtMd ∧
  SubBlockOk 4 5 m.sbvPc m.failfPc m.failtPc ∧
  SubBlockOk 9 1 m.sbvPs m.failfPs m.failtPs ∧
  ∀ i : Fin 10, m.mv[i].isSome = flagOfField m i

/-- What was handed back is what the result registers hold (10_state.md R11), and a fault has left its mark (R16). -/
abbrev ReplyAgrees (s : State) : Prop :=
  match s.reply with
  | .checksum c => s.rcrc = c ∧ s.written.rcrc = true
  | .validity v => s.v = v ∧ s.written.v = true
  | .word w => s.w = w ∧ s.failt = 0 ∧ s.written.w = true ∧ s.written.failt = true
  | .mismatch t => s.failt = t ∧ t ≠ 0 ∧ s.written.failt = true
  | .float r => s.fc = r.cls ∧ s.fq = r.q ∧ s.written.float = true
  | .measurement m => s.meas = m ∧ s.written.meas = true
  | .fault _ => s.err ≠ 0
  | _ => True

/-- The invariant of the block: `ERR` holds a legal cause, decoded values are in range, `MV` is all absent until a
measurement is parsed and then agrees with the flags, and the last reply agrees with the registers. -/
structure Inv (s : State) : Prop where
  err : s.err.toNat ≤ 3
  float : ReadingOk { cls := s.fc, q := s.fq }
  values : ∀ i : Fin 10, ∀ r, s.meas.mv[i] = some r → ReadingOk r
  absent : s.written.meas = false → ∀ i : Fin 10, s.meas.mv[i] = none
  measured : s.written.meas = true → MeasurementOk s.meas
  reply : ReplyAgrees s

/-! ### Reference forms -/

/-- One bit iteration of 40_crc.md R72 on numbers: `((CRC << 1) & 0xFF) ^ (0x31 if CRC[7] = 1 else 0x00)`. -/
def refIteration (c : Nat) : Nat := (2 * c % 256) ^^^ (if c / 128 % 2 = 1 then 0x31 else 0)

/-- The checksum of 40_crc.md R70 to R73 on numbers. -/
def refCrc (b0 b1 : Nat) : Nat := refIteration^[8] (refIteration^[8] (0xFF ^^^ b0) ^^^ b1)

/-- The same as a byte. -/
def refChecksum (b0 b1 : Byte) : Byte := BitVec.ofNat 8 (refCrc b0.toNat b1.toNat)

/-- One bit iteration on an unbounded register, nothing masked (10_state.md R13). -/
def wideIteration (c : Nat) : Nat := (2 * c) ^^^ (if c / 128 % 2 = 1 then 0x31 else 0)

/-- The checksum on an unbounded register, before the mask (10_state.md R13). -/
def wideCrc (b0 b1 : Nat) : Nat := wideIteration^[8] (wideIteration^[8] (0xFF ^^^ b0) ^^^ b1)

/-- How many bits of a byte are 1. -/
def bitCount (b : Byte) : Nat := ((List.range 8).filter b.getLsbD).length

/-- The exact value of a word with `E` below 255 (43_float_decode.md R91, R92): `(-1)^s * (1 + M / 2^23) * 2^(E - 127)`. -/
def wordValue (w : Word) : ℚ :=
  (if w.getLsbD 31 then -1 else 1) * (1 + ((w.toNat % 2 ^ 23 : Nat) : ℚ) / 2 ^ 23)
    * (2 : ℚ) ^ (((w.toNat / 2 ^ 23 % 256 : Nat) : ℤ) - 127)

/-- `E`, the bits 30:23 of a word, on numbers (43_float_decode.md R90). -/
def exponentField (w : Word) : Nat := w.toNat / 2 ^ 23 % 256

/-- `M`, the bits 22:0 of a word, on numbers (43_float_decode.md R90). -/
def mantissaField (w : Word) : Nat := w.toNat % 2 ^ 23

/-- Byte `k` of a frame. -/
def byteAt (rx : List Byte) (k : Nat) : Byte := rx.getD k 0

/-- Triplet `k` of a frame is valid: its third byte is the checksum of its first two (20_memory.md R35, 40_crc.md R75). -/
abbrev ValidAt (rx : List Byte) (k : Nat) : Prop :=
  refChecksum (byteAt rx (3 * k)) (byteAt rx (3 * k + 1)) = byteAt rx (3 * k + 2)

/-- Both triplets of field `i` are valid (20_memory.md R35). -/
abbrev FieldValid (rx : List Byte) (i : Nat) : Prop := ValidAt rx (2 * i) ∧ ValidAt rx (2 * i + 1)

/-- Field `i` is assembled into a word by MEAS.PARSE (44_measurement.md R103): its triplets and those of every earlier field of
its sub-block are valid. -/
def Assembled (rx : List Byte) (i : Nat) : Prop :=
  ∀ j, (if i < 4 then 0 else if i < 9 then 4 else 9) ≤ j → j ≤ i → FieldValid rx j

/-- The word of field `i`: `{B0, B1, B2, B3}` at offsets 0, 1, 3 and 4 of the field (30_encoding.md R55, R59). -/
def wordAt (rx : List Byte) (i : Nat) : Word :=
  byteAt rx (6 * i) ++ byteAt rx (6 * i + 1) ++ byteAt rx (6 * i + 3) ++ byteAt rx (6 * i + 4)

end Sys2Proof
end

