-- ==== Sys2Proof/Certificates/Slice0/Obligations.lean ====
section
/-! DEFINITION. The statements, each the formal reading of rules of spec/ (OBLIGATIONS.json names them). They state; nothing is
proved here. `refChecksum`, `ValidAt`, `wordAt`, `wordValue` and the other reference forms are in Safety.lean. In the equations
below, `reply` is where the model holds the result or the fault an operation delivers (entry 5) and `written` is how it holds
"written since reset" (spec/10_state.md R24; entry 4). -/

open Sys2Proof Sys2Proof.Machine

/-! ### Encoding -/

/-- 30_encoding.md R50, R58, through the request layout of entry 2: under every command table whose codes tell the commands
apart, decoding what the encoder gives for a well-formed instruction gives it back, every operand at every value. The table as
printed is such a table. -/
def Obligations.DecodeEncodeRoundTrip : Prop :=
  (∀ (t : CommandTable) (i : Instr), t.wellFormed = true → i.wellFormed = true → decode t (encode t i) = .ok i) ∧
  CommandTable.default.wellFormed = true

/-- The other direction, through the request layout of entry 2, under every command table: the decoder answers well-formed
instructions only, and, but for the reserved code (which stands whatever operand bytes come with it, R60), each instruction is
selected by exactly one request. -/
def Obligations.DecodedRequestsAreCanonical : Prop :=
  ∀ (t : CommandTable) (r : Request) (i : Instr), decode t r = .ok i →
    i.wellFormed = true ∧ (i ≠ .reserved0 → r = encode t i) ∧ (i = .reserved0 ↔ ∃ bs, r = .op 0 bs)

/-- A few words written out from the codes of 30_encoding.md R50 and R58, under the command table as printed. Operand bytes
beside a code are the model's layout (DESIGN CHOICE, entry 2), the operand byte count that tells the two readings of 80 04 apart
is that of entry 12, and the operand bytes of zeros beside an opcode-table word are those of entry 13. -/
def Obligations.SampleWordsDecode : Prop :=
  decode CommandTable.default (.op 0b000 []) = .ok .reserved0 ∧
  decode CommandTable.default (.op 0b001 [0xBE, 0xEF]) = .ok (.crcCompute 0xBE 0xEF) ∧
  decode CommandTable.default (.op 0b010 [0xBE, 0xEF, 0x92]) = .ok (.crcValidate 0xBE 0xEF 0x92) ∧
  decode CommandTable.default (.op 0b011 [0xD0, 0x10, 0x03, 0x00]) = .ok (.frameBuild 0xD0 0x10 (some [0x03, 0x00])) ∧
  decode CommandTable.default (.op 0b110 [0x3F, 0x80, 0x00, 0x00]) = .ok (.floatDecode 0x3F800000) ∧
  decode CommandTable.default (.cmd 0xD0 0x10 []) = .ok .cmdStartMeasurement ∧
  decode CommandTable.default (.cmd 0x80 0x04 []) = .ok .cmdReadAutoclean ∧
  decode CommandTable.default (.cmd 0x80 0x04 [0x00, 0x05, 0x46, 0x00]) = .ok (.cmdWriteAutoclean 0x00054600) ∧
  decode CommandTable.default (.cmd 0x00 0x10 []) = .error (.unknownCommand 0x00 0x10) ∧
  decodeTableWord 8 7 = some (.measParse (List.replicate 60 0)) ∧
  decodeTableWord 16 0xD206 = some .cmdReadStatus

/-- 70_reset_and_hazards.md R170, with the list of entry 1 and the request layout of entry 2: a step takes the host's next
event; a request is decoded, under the machine's command table, and its operation performed whole on the state that is left. A
request that names no instruction stops as badRequest (DESIGN CHOICE, entry 2) and an empty list as endOfRun (DESIGN CHOICE,
entry 1). -/
def Obligations.StepRunsTheHostsNextEvent : Prop :=
  (∀ (s : State) (r : Request) (rest : List HostEvent) (i : Instr), s.pending = .start r :: rest →
      decode s.cfg.commands r = .ok i → step s = exec i { s with pending := rest }) ∧
  (∀ (s : State) (r : Request) (rest : List HostEvent) (e : DecodeError), s.pending = .start r :: rest →
      decode s.cfg.commands r = .error e → step s = .refused (.badRequest e)) ∧
  (∀ s : State, s.pending = [] → step s = .refused .endOfRun)

/-! ### Reset and the host's reads -/

/-- 10_state.md R23 and 70_reset_and_hazards.md R161 with the model's choices (entries 3, 4, 18): from every state the reset
event leaves `ERR` = 0, every entry of `MV` absent, every other result register unreadable, and the host's list, the model
arguments and the transport as they were. -/
def Obligations.ResetEventLeavesTheResetState : Prop :=
  ∀ (s : State) (rest : List HostEvent), s.pending = .reset :: rest →
    ∃ t, step s = .next t ∧ t.err = 0 ∧ (∀ i : Fin 10, t.meas.mv[i] = none) ∧
      (∀ r : ResultReg, r ≠ .err → (∀ i, r ≠ .mv i) → hostRead r t = .refused (.readBeforeWrite r)) ∧
      hostRead .err t = .next (.bits 3 0) ∧
      t.pending = rest ∧ t.cfg = s.cfg ∧ t.transport = s.transport ∧ FreshReset t

/-- 10_state.md R24, 45_environment.md R131, with the marks of entry 4, for every result register in every state: the read gives
what the register holds once its mark is set, and is refused while it is clear; `ERR` and the entries of `MV` are read at any
time. -/
def Obligations.HostReadsOnlyWrittenRegisters : Prop :=
  ∀ s : State,
    let read (r : ResultReg) (written : Bool) (width value : Nat) : Prop :=
      hostRead r s = if written then .next (.bits width value) else .refused (.readBeforeWrite r)
    hostRead .err s = .next (.bits 3 s.err.toNat) ∧
    (∀ i : Fin 10, hostRead (.mv i) s = .next (.entry s.meas.mv[i])) ∧
    read .rcrc s.written.rcrc 8 s.rcrc.toNat ∧
    read .v s.written.v 1 (if s.v then 1 else 0) ∧
    read .w s.written.w 32 s.w.toNat ∧
    read .fc s.written.float 2 (match s.fc with
                                | .fin => 0
                                | .pinf => 1
                                | .ninf => 2
                                | .nan => 3) ∧
    (hostRead .fq s = if s.written.float then .next (.count s.fq) else .refused (.readBeforeWrite .fq)) ∧
    read .failt s.written.failt 2 s.failt.toNat ∧
    read .sbvMd s.written.meas 1 (if s.meas.sbvMd then 1 else 0) ∧
    read .sbvPc s.written.meas 1 (if s.meas.sbvPc then 1 else 0) ∧
    read .sbvPs s.written.meas 1 (if s.meas.sbvPs then 1 else 0) ∧
    read .complete s.written.meas 1 (if s.meas.complete then 1 else 0) ∧
    read .failfMd s.written.meas 4 s.meas.failfMd.toNat ∧
    read .failfPc s.written.meas 4 s.meas.failfPc.toNat ∧
    read .failfPs s.written.meas 4 s.meas.failfPs.toNat ∧
    read .failtMd s.written.meas 2 s.meas.failtMd.toNat ∧
    read .failtPc s.written.meas 2 s.meas.failtPc.toNat ∧
    read .failtPs s.written.meas 2 s.meas.failtPs.toNat

/-- 10_state.md R24 and R11 to R20 with entry 4: once an operation has completed, from whatever state, the host reads in each of
its result registers what the operation delivered. -/
def Obligations.HostReadsWhatWasDelivered : Prop :=
  (∀ (s t : State) (b0 b1 : Byte), exec (.crcCompute b0 b1) s = .next t →
      hostRead .rcrc t = .next (.bits 8 (refChecksum b0 b1).toNat)) ∧
  (∀ (s t : State) (b0 b1 c : Byte), exec (.crcValidate b0 b1 c) s = .next t →
      hostRead .v t = .next (.bits 1 (if refChecksum b0 b1 = c then 1 else 0))) ∧
  (∀ (s t : State) (rx : List Byte), rx.length % 3 = 0 → rx ≠ [] → Within rx.length s.cfg.maxResponseLen →
    exec (.frameParse rx) s = .next t →
      hostRead .v t = .next (.bits 1 (if ValidAt rx (rx.length / 3 - 1) then 1 else 0))) ∧
  (∀ (s t : State) (rx : List Byte), rx.length = 6 → exec (.fieldParse rx) s = .next t →
      (FieldValid rx 0 → hostRead .w t = .next (.bits 32 (wordAt rx 0).toNat)) ∧
      hostRead .v t = .next (.bits 1 (if ValidAt rx 1 then 1 else 0)) ∧
      hostRead .failt t = .next (.bits 2 ((if ValidAt rx 0 then 0 else 1) + (if ValidAt rx 1 then 0 else 2)))) ∧
  (∀ (s t : State) (w : Word), exec (.floatDecode w) s = .next t →
      hostRead .fc t = .next (.bits 2 (if exponentField w ≠ 255 then 0 else if mantissaField w ≠ 0 then 3
                                       else if w.getLsbD 31 then 2 else 1)) ∧
      hostRead .fq t = .next (.count (decodeFloat s.cfg.tieRule w).q)) ∧
  (∀ (s t : State) (rx : List Byte), rx.length = 60 → exec (.measParse rx) s = .next t →
      let m := t.meas
      (∀ i : Fin 10, hostRead (.mv i) t = .next (.entry
        (if flagOfField m i then some (decodeFloat s.cfg.tieRule (wordAt rx i)) else none))) ∧
      hostRead .sbvMd t = .next (.bits 1 (if ∀ i : Fin 4, FieldValid rx i then 1 else 0)) ∧
      hostRead .sbvPc t = .next (.bits 1 (if ∀ i : Fin 5, FieldValid rx (4 + i) then 1 else 0)) ∧
      hostRead .sbvPs t = .next (.bits 1 (if FieldValid rx 9 then 1 else 0)) ∧
      hostRead .complete t = .next (.bits 1 (if ∀ i : Fin 10, FieldValid rx i then 1 else 0)) ∧
      hostRead .failfMd t = .next (.bits 4 m.failfMd.toNat) ∧ hostRead .failtMd t = .next (.bits 2 m.failtMd.toNat) ∧
      hostRead .failfPc t = .next (.bits 4 m.failfPc.toNat) ∧ hostRead .failtPc t = .next (.bits 2 m.failtPc.toNat) ∧
      hostRead .failfPs t = .next (.bits 4 m.failfPs.toNat) ∧ hostRead .failtPs t = .next (.bits 2 m.failtPs.toNat))

/-! ### The CRC engine -/

/-- 40_crc.md R74 (with R70 to R73): CRC.COMPUTE completes in every state for all 65536 operand pairs, writes the checksum of
the reference form to `RCRC` and leaves it in `CRC`, writes `D0` and `D1`, and changes nothing else. It is selected by `OP` = 1. -/
def Obligations.CrcComputeDeliversTheChecksum : Prop :=
  (∀ (b0 b1 : Byte) (s : State),
    exec (.crcCompute b0 b1) s =
      .next { s with d0 := b0, d1 := b1, crc := refChecksum b0 b1, rcrc := refChecksum b0 b1,
                     written := { s.written with rcrc := true }, reply := .checksum (refChecksum b0 b1) }) ∧
  (∀ b0 b1 : Byte, ∃ operands, ∀ table, encode table (.crcCompute b0 b1) = .op 1 operands) ∧
  refChecksum 0x00 0x00 = 0x81 ∧ refChecksum 0xFF 0xFF = 0xAC ∧ refChecksum 0xFF 0x00 = 0x00 ∧
  refChecksum 0xBE 0xEF = 0x92

/-- 40_crc.md R75: CRC.VALIDATE completes in every state for all operands, sets `V` exactly when the third byte is the
checksum of the first two, writes `D0`, `D1`, `DC`, `CRC`, and changes nothing else, `RCRC` included. For each data block
exactly one third byte gives `V` = 1; the all-zero and the all-ones triplet give `V` = 0. It is selected by `OP` = 2. -/
def Obligations.CrcValidateComparesTheChecksum : Prop :=
  (∀ (b0 b1 c : Byte) (s : State),
    exec (.crcValidate b0 b1 c) s =
      .next { s with d0 := b0, d1 := b1, dc := c, crc := refChecksum b0 b1, v := decide (refChecksum b0 b1 = c),
                     written := { s.written with v := true },
                     reply := .validity (decide (refChecksum b0 b1 = c)) }) ∧
  (∀ b0 b1 c : Byte, ∃ operands, ∀ table, encode table (.crcValidate b0 b1 c) = .op 2 operands) ∧
  (∀ b0 b1 : Byte, ∃! c : Byte, tripletValid b0 b1 c = true) ∧
  tripletValid 0x00 0x00 0x00 = false ∧ tripletValid 0xFF 0xFF 0xFF = false ∧
  tripletValid 0xBE 0xEF 0x92 = true ∧ tripletValid 0xBE 0xEF 0x93 = false

/-- 10_state.md section 3 and 40_crc.md section 1 (the spec's own inference, in R13 and R73): masking once at the end of an
unbounded register gives the same checksum as the 8-bit register. -/
def Obligations.ChecksumMaskedOnceAtTheEnd : Prop :=
  ∀ b0 b1 : Byte, (crc8 b0 b1).toNat = wideCrc b0.toNat b1.toNat % 256

/-- 40_crc.md section 4 (the spec's own inference, R77 (a)): for a fixed byte the checksum is a bijection of the other, and
every checksum value belongs to exactly 256 data blocks. -/
def Obligations.ChecksumIsBijectiveInEachByte : Prop :=
  (∀ b0 : Byte, Function.Bijective fun b1 => crc8 b0 b1) ∧ (∀ b1 : Byte, Function.Bijective fun b0 => crc8 b0 b1) ∧
  ∀ c : Byte, (Finset.univ.filter fun p : Byte × Byte => crc8 p.1 p.2 = c).card = 256

/-- 40_crc.md section 4 (the spec's own inference, R77 (b)): the checksum is affine over exclusive or. -/
def Obligations.ChecksumIsAffine : Prop :=
  ∀ a0 a1 b0 b1 : Byte,
    crc8 (a0 ^^^ b0) (a1 ^^^ b1) ^^^ crc8 0 0 = (crc8 a0 a1 ^^^ crc8 0 0) ^^^ (crc8 b0 b1 ^^^ crc8 0 0)

/-- 40_crc.md section 4 and 70_reset_and_hazards.md section 3 (the spec's own inference, R77 (c)): changing one, two or three
of the 24 bits of a valid triplet makes it invalid; four changed bits can pass. -/
def Obligations.ChecksumDetectsUpToThreeBitErrors : Prop :=
  (∀ b0 b1 c e0 e1 ec : Byte, tripletValid b0 b1 c = true →
    1 ≤ bitCount e0 + bitCount e1 + bitCount ec → bitCount e0 + bitCount e1 + bitCount ec ≤ 3 →
    tripletValid (b0 ^^^ e0) (b1 ^^^ e1) (c ^^^ ec) = false) ∧
  ∃ b0 b1 c e0 e1 ec : Byte, tripletValid b0 b1 c = true ∧ bitCount e0 + bitCount e1 + bitCount ec = 4 ∧
    tripletValid (b0 ^^^ e0) (b1 ^^^ e1) (c ^^^ ec) = true

/-! ### Frames -/

/-- 41_frame_build.md R80, R81's invariant (30_encoding.md R52, R53): on an even payload within the bound FRAME.BUILD
completes and delivers the two command bytes followed by each two payload bytes and their checksum; `IDX` is the payload's
length, `D0`, `D1`, `CRC` are those of the last data block (unchanged when there is none), and nothing else changes. An absent
payload is an empty one. An odd payload, or one above a bound that is given, raises PayloadLength and nothing is produced. -/
def Obligations.FrameBuildDeliversTheFrame : Prop :=
  (∀ (hi lo : Byte) (pay : List Byte) (s : State), pay.length % 2 = 0 → Within pay.length s.cfg.maxPayloadLen →
    ∃ (t : State) (tx : List Byte), exec (.frameBuild hi lo (some pay)) s = .next t ∧
      t = { s with d0 := t.d0, d1 := t.d1, crc := t.crc, idx := pay.length, reply := .frame tx } ∧
      tx.length = 2 + 3 * (pay.length / 2) ∧ tx[0]? = some hi ∧ tx[1]? = some lo ∧
      (∀ j, j < pay.length / 2 →
        tx[2 + 3 * j]? = some (byteAt pay (2 * j)) ∧ tx[3 + 3 * j]? = some (byteAt pay (2 * j + 1)) ∧
        tx[4 + 3 * j]? = some (refChecksum (byteAt pay (2 * j)) (byteAt pay (2 * j + 1)))) ∧
      (pay = [] → t.d0 = s.d0 ∧ t.d1 = s.d1 ∧ t.crc = s.crc) ∧
      (∀ front a b, pay = front ++ [a, b] → t.d0 = a ∧ t.d1 = b ∧ t.crc = refChecksum a b)) ∧
  (∀ (hi lo : Byte) (s : State), exec (.frameBuild hi lo none) s = exec (.frameBuild hi lo (some [])) s) ∧
  (∀ (hi lo : Byte) (pay : List Byte) (s : State),
    (pay.length % 2 = 1 ∨ ¬ Within pay.length s.cfg.maxPayloadLen) →
    exec (.frameBuild hi lo (some pay)) s =
      .next { s with err := if s.err = 0 then 2 else s.err, reply := .fault (.payloadLength pay.length) }) ∧
  (∀ (hi lo : Byte) (pay : Option (List Byte)), ∃ operands, ∀ table, encode table (.frameBuild hi lo pay) = .op 3 operands)

/-- 41_frame_build.md section 1 (R81's inference): whatever FRAME.BUILD delivers, FRAME.PARSE on it without its two command
bytes, in any state whose bound admits it, completes and gives the payload back, every triplet valid. -/
def Obligations.ParserInvertsAssembler : Prop :=
  ∀ (hi lo : Byte) (pay tx : List Byte) (s t s' : State),
    exec (.frameBuild hi lo (some pay)) s = .next t → t.reply = .frame tx →
    Within (tx.drop 2).length s'.cfg.maxResponseLen →
    ∃ (t' : State) (tr : List Triplet), exec (.frameParse (tx.drop 2)) s' = .next t' ∧ t'.reply = .triplets tr ∧
      tr.length = pay.length / 2 ∧ (∀ e ∈ tr, e.valid = true) ∧ tripletData tr = pay

/-- 42_frame_parse.md R85, R86: on whole strides within the bound FRAME.PARSE completes and delivers one entry per stride, in
input order, the data bytes as received and the validity of that stride alone, whatever the other strides hold; `IDX` is the
frame's length, `D0`, `D1`, `DC`, `CRC`, `V` are those of the last stride (unchanged when there is none), and nothing else
changes. Any other length raises FrameLength and no entry is delivered. -/
def Obligations.FrameParseReportsEveryStride : Prop :=
  (∀ (rx : List Byte) (s : State), rx.length % 3 = 0 → Within rx.length s.cfg.maxResponseLen →
    ∃ (t : State) (tr : List Triplet), exec (.frameParse rx) s = .next t ∧
      t = { s with d0 := t.d0, d1 := t.d1, dc := t.dc, crc := t.crc, v := t.v, idx := rx.length,
                   written := { s.written with v := s.written.v || !rx.isEmpty }, reply := .triplets tr } ∧
      tr.length = rx.length / 3 ∧
      (∀ k, k < rx.length / 3 → tr[k]? = some
        { b0 := byteAt rx (3 * k), b1 := byteAt rx (3 * k + 1), valid := decide (ValidAt rx k) }) ∧
      (rx = [] → t.d0 = s.d0 ∧ t.d1 = s.d1 ∧ t.dc = s.dc ∧ t.crc = s.crc ∧ t.v = s.v) ∧
      (∀ front a b c, rx = front ++ [a, b, c] →
        t.d0 = a ∧ t.d1 = b ∧ t.dc = c ∧ t.crc = refChecksum a b ∧ t.v = decide (refChecksum a b = c))) ∧
  (∀ (rx : List Byte) (s : State), (rx.length % 3 ≠ 0 ∨ ¬ Within rx.length s.cfg.maxResponseLen) →
    exec (.frameParse rx) s =
      .next { s with err := if s.err = 0 then 3 else s.err, reply := .fault (.frameLength rx.length) }) ∧
  (∀ (table : CommandTable) (rx : List Byte), encode table (.frameParse rx) = .op 4 rx)

/-- 42_frame_parse.md R85, R86 (20_memory.md R42): parsing a frame made of two whole-stride parts gives the entries of the
first part followed by the entries of the second, from whatever three states: no stride changes what another one reports. -/
def Obligations.StridesAreIndependent : Prop :=
  ∀ (xs ys : List Byte) (s s1 s2 t t1 t2 : State) (tr tr1 tr2 : List Triplet), xs.length % 3 = 0 →
    exec (.frameParse (xs ++ ys)) s = .next t → t.reply = .triplets tr →
    exec (.frameParse xs) s1 = .next t1 → t1.reply = .triplets tr1 →
    exec (.frameParse ys) s2 = .next t2 → t2.reply = .triplets tr2 → tr = tr1 ++ tr2

/-- 42_frame_parse.md R87 (30_encoding.md R55): on any six bytes FIELD.PARSE completes. With both triplets valid it delivers the
big-endian word of offsets 0, 1, 3, 4; otherwise a mismatch that names every invalid triplet, and `W` is not written. `FAILT`
is written either way; `D0`, `D1`, `DC`, `CRC`, `V` are those of the second triplet, `IDX` is 6, and nothing else changes. Any
other number of bytes raises FrameLength. -/
def Obligations.FieldParseDeliversWordOrMismatch : Prop :=
  (∀ (b0 b1 c0 b2 b3 c1 : Byte) (s : State),
    let v0 := decide (refChecksum b0 b1 = c0)
    let v1 := decide (refChecksum b2 b3 = c1)
    let failt : BitVec 2 := (if v0 then 0 else 1) + (if v1 then 0 else 2)
    let scanned : State :=
      { s with d0 := b2, d1 := b3, dc := c1, crc := refChecksum b2 b3, v := v1, idx := 6, failt := failt,
               written := { s.written with v := true, failt := true } }
    exec (.fieldParse [b0, b1, c0, b2, b3, c1]) s = .next
      (if v0 && v1 then
        { scanned with w := b0 ++ b1 ++ b2 ++ b3, written := { scanned.written with w := true },
                       reply := .word (b0 ++ b1 ++ b2 ++ b3) }
       else { scanned with reply := .mismatch failt })) ∧
  (∀ (rx : List Byte) (s : State), rx.length ≠ 6 →
    exec (.fieldParse rx) s =
      .next { s with err := if s.err = 0 then 3 else s.err, reply := .fault (.frameLength rx.length) }) ∧
  (∀ (table : CommandTable) (rx : List Byte), encode table (.fieldParse rx) = .op 5 rx)

/-! ### Faults -/

/-- 30_encoding.md R60: selecting `OP` = 0 raises IllegalOp, with its code 1 kept in `ERR` if that holds 0, and does nothing
else. No other code is unused, FRAME.BUILD accepts any two command bytes, and a checksum that does not match is no fault. -/
def Obligations.ReservedCodeRaisesIllegalOp : Prop :=
  (∀ (table : CommandTable) (operands : List Byte), decode table (.op 0 operands) = .ok .reserved0) ∧
  (∀ s : State, exec .reserved0 s =
    .next { s with err := if s.err = 0 then 1 else s.err, reply := .fault .illegalOp }) ∧
  (∀ code : BitVec 3, code ≠ 0 → ∃ operands i, isOperation i = true ∧ i ≠ .reserved0 ∧
    ∀ table, decode table (.op code operands) = .ok i) ∧
  (∀ (hi lo : Byte) (s : State), ∃ t, exec (.frameBuild hi lo none) s = .next t ∧ t.err = s.err ∧
    t.reply = .frame [hi, lo]) ∧
  (∀ (b0 b1 c : Byte) (s : State), c ≠ refChecksum b0 b1 →
    ∃ t, exec (.crcValidate b0 b1 c) s = .next t ∧ t.err = s.err ∧ t.reply = .validity false)

/-- 20_memory.md R36 and 60_exceptions.md R142: an odd payload, or one above a bound that is given, raises PayloadLength with
its length (code 2); a response of FRAME.PARSE that is not whole strides, or above a bound that is given, and a response of
FIELD.PARSE or MEAS.PARSE that has not 6 or 60 bytes raises FrameLength with its length (code 3). Only `ERR` and the report
change. -/
def Obligations.WrongLengthsRaiseTheirFault : Prop :=
  (∀ (hi lo : Byte) (pay : List Byte) (s : State),
    (pay.length % 2 = 1 ∨ ¬ Within pay.length s.cfg.maxPayloadLen) →
    exec (.frameBuild hi lo (some pay)) s =
      .next { s with err := if s.err = 0 then 2 else s.err, reply := .fault (.payloadLength pay.length) }) ∧
  (∀ (rx : List Byte) (s : State), (rx.length % 3 ≠ 0 ∨ ¬ Within rx.length s.cfg.maxResponseLen) →
    exec (.frameParse rx) s =
      .next { s with err := if s.err = 0 then 3 else s.err, reply := .fault (.frameLength rx.length) }) ∧
  (∀ (rx : List Byte) (s : State), rx.length ≠ 6 →
    exec (.fieldParse rx) s =
      .next { s with err := if s.err = 0 then 3 else s.err, reply := .fault (.frameLength rx.length) }) ∧
  (∀ (rx : List Byte) (s : State), rx.length ≠ 60 →
    exec (.measParse rx) s =
      .next { s with err := if s.err = 0 then 3 else s.err, reply := .fault (.frameLength rx.length) })

/-- 60_exceptions.md R146: a fault of an operation is precise. The state after it is the state before it with the fault's code
in `ERR` if that held 0, and the fault reported. -/
def Obligations.FaultEntryIsPrecise : Prop :=
  ∀ (i : Instr) (s t : State) (f : BlockFault), isOperation i = true → exec i s = .next t → t.reply = .fault f →
    t = { s with err := if s.err = 0 then (match f with
                                           | .illegalOp => 1
                                           | .payloadLength _ => 2
                                           | .frameLength _ => 3) else s.err,
                 reply := .fault f }

/-- 10_state.md R16: `ERR` is sticky. Over any step but a reset event, a fault that is reported writes its code (1 IllegalOp,
2 PayloadLength, 3 FrameLength) if `ERR` holds 0, and everything else leaves `ERR` as it was; the reset event clears it; values 4
to 7 are never written; the host reads it at any time; and no instruction reads it: with another value in `ERR` the same
instruction does the same to everything else. -/
def Obligations.ErrKeepsTheFirstCause : Prop :=
  (∀ s t : State, step s = .next t → s.pending.head? ≠ some .reset →
    (∀ f, t.reply = .fault f → t.err = if s.err = 0 then (match f with
                                                          | .illegalOp => 1
                                                          | .payloadLength _ => 2
                                                          | .frameLength _ => 3) else s.err) ∧
    ((∀ f, t.reply ≠ .fault f) → t.err = s.err)) ∧
  (∀ s : State, s.pending.head? = some .reset → ∃ t, step s = .next t ∧ t.err = 0) ∧
  (∀ s t : State, step s = .next t → s.err.toNat ≤ 3 → t.err.toNat ≤ 3) ∧
  (∀ s : State, hostRead .err s = .next (.bits 3 s.err.toNat)) ∧
  (∀ (i : Instr) (s t : State) (e : BitVec 3), exec i s = .next t →
    ∃ e', exec i { s with err := e } = .next { t with err := e' })

/-- 60_exceptions.md R141 (and R142, which gives CRC.COMPUTE no fault): no bytes make a checksum operation or a parse of an
accepted length fault: each completes, leaves `ERR` as it was, and hands back no fault. -/
def Obligations.MismatchIsAResult : Prop :=
  ∀ (i : Instr) (s : State),
    (match i with
     | .crcCompute _ _ => True
     | .crcValidate _ _ _ => True
     | .frameParse rx => rx.length % 3 = 0 ∧ Within rx.length s.cfg.maxResponseLen
     | .fieldParse rx => rx.length = 6
     | .measParse rx => rx.length = 60
     | _ => False) →
    ∃ t, exec i s = .next t ∧ t.err = s.err ∧ ∀ f, t.reply ≠ .fault f

/-- 70_reset_and_hazards.md R169 (with 60_exceptions.md R142, R147): every operation of the block ends in a next state, from
every state and for all operands; none of the three that R142 gives no fault reports one. -/
def Obligations.OperationsAlwaysComplete : Prop :=
  ∀ (i : Instr) (s : State), isOperation i = true →
    ∃ t, exec i s = .next t ∧
      ((∃ b0 b1, i = .crcCompute b0 b1) ∨ (∃ b0 b1 c, i = .crcValidate b0 b1 c) ∨ (∃ w, i = .floatDecode w) →
        t.err = s.err ∧ ∀ f, t.reply ≠ .fault f)

/-! ### The float decoder -/

/-- 43_float_decode.md R96: FLOAT.DECODE is total and pure. It completes for each word in every state, changes nothing but `FC`
and `FQ` (with the mark and the delivered result), and what it writes depends on the word alone (and on the model's one tie
rule), not on where the word came from. -/
def Obligations.FloatDecodeIsTotalAndPure : Prop :=
  (∀ (w : Word) (s : State), ∃ t, exec (.floatDecode w) s = .next t ∧
    t = { s with fc := t.fc, fq := t.fq, written := { s.written with float := true },
                 reply := .float { cls := t.fc, q := t.fq } }) ∧
  (∀ (w : Word) (s s' t t' : State), s.cfg.tieRule = s'.cfg.tieRule → exec (.floatDecode w) s = .next t →
    exec (.floatDecode w) s' = .next t' → t.fc = t'.fc ∧ t.fq = t'.fq)

/-- 43_float_decode.md sections 1 to 3 (R91, R92, R94, R95): for a word with `E` below 255 FLOAT.DECODE completes with class FIN and a count
of thousandths within one half of 1000 times the word's exact value; when it is exactly one half away and the tie rule is the
spec's, the count is even. It changes `FC` and `FQ` (with the model's mark and reply) and nothing else. -/
def Obligations.FloatDecodeRoundsToThousandths : Prop :=
  ∀ (w : Word) (s : State), exponentField w ≠ 255 →
    ∃ (t : State) (q : Int), exec (.floatDecode w) s = .next t ∧
      t = { s with fc := .fin, fq := q, written := { s.written with float := true },
                   reply := .float { cls := .fin, q := q } } ∧
      |(q : ℚ) - 1000 * wordValue w| ≤ 1 / 2 ∧
      (s.cfg.tieRule = .halfEven → |(q : ℚ) - 1000 * wordValue w| = 1 / 2 → q % 2 = 0)

/-- 43_float_decode.md R93: a word with `E` = 255 completes with a class and `FQ` = 0: NAN when `M` is not 0, otherwise NINF or
PINF by the sign; nothing else changes. -/
def Obligations.FloatDecodeClassifiesSpecials : Prop :=
  ∀ (w : Word) (s : State), exponentField w = 255 →
    let c : FloatClass := if mantissaField w ≠ 0 then .nan else if w.getLsbD 31 then .ninf else .pinf
    exec (.floatDecode w) s = .next
      { s with fc := c, fq := 0, written := { s.written with float := true }, reply := .float { cls := c, q := 0 } }

/-- 43_float_decode.md section 3 (R95's corner case): for `E` from 150 to 254 the count is exactly 1000 times the value. -/
def Obligations.FloatDecodeExactOnIntegers : Prop :=
  ∀ (tie : TieRule) (w : Word), 150 ≤ exponentField w → exponentField w ≤ 254 →
    ((decodeFloat tie w).q : ℚ) = 1000 * wordValue w

/-- 43_float_decode.md section 4 (the spec's own inference, R97 (a)): under the spec's tie rule, flipping the sign bit negates
the count, swaps PINF and NINF and leaves NAN. -/
def Obligations.FloatDecodeNegates : Prop :=
  ∀ w : Word,
    decodeFloat .halfEven (w ^^^ 0x80000000) =
      { cls := match (decodeFloat .halfEven w).cls with
               | .fin => .fin
               | .pinf => .ninf
               | .ninf => .pinf
               | .nan => .nan
        q := -(decodeFloat .halfEven w).q }

/-- 43_float_decode.md section 4 (the spec's own inference, R97 (b)): the count is monotone in the exact value, under each tie
rule. -/
def Obligations.FloatDecodeMonotone : Prop :=
  ∀ (tie : TieRule) (w1 w2 : Word), exponentField w1 ≠ 255 → exponentField w2 ≠ 255 → wordValue w1 ≤ wordValue w2 →
    (decodeFloat tie w1).q ≤ (decodeFloat tie w2).q

/-- 43_float_decode.md section 4 (the spec's own inference, R97 (c), (e)), under each tie rule: a finite count is 0 exactly for
`E` up to 115, or `E` = 116 with `M` up to 0x03126E; and every count fits in 139 bits of two's complement. -/
def Obligations.FloatDecodeRange : Prop :=
  (∀ (tie : TieRule) (w : Word), exponentField w ≠ 255 →
    ((decodeFloat tie w).q = 0 ↔
      exponentField w ≤ 115 ∨ (exponentField w = 116 ∧ mantissaField w ≤ 0x03126E))) ∧
  ∀ (tie : TieRule) (w : Word), |(decodeFloat tie w).q| < 2 ^ 138

/-! ### The measurement parser -/

/-- 44_measurement.md R107 (R101, R106): on any 60 bytes MEAS.PARSE completes. Each validity flag is 1 exactly when every triplet
of its sub-block is valid, `COMPLETE` is the three together. That `D0`, `D1`, `DC`, `CRC`, `V` are those of the last triplet and
`IDX` is 60 is the model's reading (DEDUCED, entry 17): R107 names them as written and gives no values. Nothing
else changes but `W` and MEAS.PARSE's own registers: not `RCRC`, `FC`, `FQ`, FIELD.PARSE's `FAILT` or `ERR`. -/
def Obligations.MeasParseSetsTheFlags : Prop :=
  ∀ (rx : List Byte) (s : State), rx.length = 60 →
    ∃ (t : State) (m : Measurement), exec (.measParse rx) s = .next t ∧
      t = { s with d0 := byteAt rx 57, d1 := byteAt rx 58, dc := byteAt rx 59,
                   crc := refChecksum (byteAt rx 57) (byteAt rx 58), v := decide (ValidAt rx 19), idx := 60,
                   w := t.w, meas := m,
                   written := { s.written with v := true, w := t.written.w, meas := true },
                   reply := .measurement m } ∧
      (m.sbvMd = true ↔ ∀ i, i < 4 → FieldValid rx i) ∧
      (m.sbvPc = true ↔ ∀ i, 4 ≤ i → i < 9 → FieldValid rx i) ∧
      (m.sbvPs = true ↔ FieldValid rx 9) ∧
      (m.complete = true ↔ m.sbvMd = true ∧ m.sbvPc = true ∧ m.sbvPs = true)

/-- 44_measurement.md R103, R108 (10_state.md R20): in each sub-block the failure report is (15, 0) when the flag is 1, and
otherwise the first field with an invalid triplet and which of its two triplets were invalid, whatever the later fields
hold. -/
def Obligations.MeasParseReportsTheFirstFailure : Prop :=
  ∀ (rx : List Byte) (s t : State), rx.length = 60 → exec (.measParse rx) s = .next t →
    let reports (first count : Nat) (valid : Bool) (failf : BitVec 4) (failt : BitVec 2) : Prop :=
      (valid = true → failf = 15 ∧ failt = 0) ∧
      ∀ i, first ≤ i → i < first + count → (∀ j, first ≤ j → j < i → FieldValid rx j) → ¬ FieldValid rx i →
        valid = false ∧ failf.toNat = i ∧
        failt = (if ValidAt rx (2 * i) then 0 else 1) + (if ValidAt rx (2 * i + 1) then 0 else 2)
    reports 0 4 t.meas.sbvMd t.meas.failfMd t.meas.failtMd ∧
    reports 4 5 t.meas.sbvPc t.meas.failfPc t.meas.failtPc ∧
    reports 9 1 t.meas.sbvPs t.meas.failfPs t.meas.failtPs

/-- 44_measurement.md R103, R105 (30_encoding.md R55, R56): an entry of `MV` is the decoded big-endian word of its field when its
sub-block is valid, and absent otherwise, earlier valid fields of the sub-block included. -/
def Obligations.MeasParseValuesAreAllOrNothing : Prop :=
  ∀ (rx : List Byte) (s t : State), rx.length = 60 → exec (.measParse rx) s = .next t →
    ∀ i : Fin 10, t.meas.mv[i] =
      if flagOfField t.meas i then some (decodeFloat s.cfg.tieRule (wordAt rx i)) else none

/-- 44_measurement.md R104: the sub-blocks are independent. Two frames that agree on the bytes of one sub-block get the same
flag, failure report and values for it, whatever the rest of the frame holds. -/
def Obligations.MeasParseSubBlocksIndependent : Prop :=
  ∀ (rx rx' : List Byte) (s t t' : State), rx.length = 60 → rx'.length = 60 →
    exec (.measParse rx) s = .next t → exec (.measParse rx') s = .next t' →
    ((∀ k, k < 24 → byteAt rx k = byteAt rx' k) →
      t.meas.sbvMd = t'.meas.sbvMd ∧ t.meas.failfMd = t'.meas.failfMd ∧ t.meas.failtMd = t'.meas.failtMd ∧
      ∀ i : Fin 10, i.val < 4 → t.meas.mv[i] = t'.meas.mv[i]) ∧
    ((∀ k, 24 ≤ k → k < 54 → byteAt rx k = byteAt rx' k) →
      t.meas.sbvPc = t'.meas.sbvPc ∧ t.meas.failfPc = t'.meas.failfPc ∧ t.meas.failtPc = t'.meas.failtPc ∧
      ∀ i : Fin 10, 4 ≤ i.val → i.val < 9 → t.meas.mv[i] = t'.meas.mv[i]) ∧
    ((∀ k, 54 ≤ k → k < 60 → byteAt rx k = byteAt rx' k) →
      t.meas.sbvPs = t'.meas.sbvPs ∧ t.meas.failfPs = t'.meas.failfPs ∧ t.meas.failtPs = t'.meas.failtPs ∧
      t.meas.mv[9] = t'.meas.mv[9])

/-- 44_measurement.md section 3 and 95_test_vectors.md P3 (DEDUCED, entry 17): `W` after MEAS.PARSE on any 60 bytes is the last
word assembled, in the order MD, PC, PS, and is unchanged when none is assembled. -/
def Obligations.MeasParseLeavesTheLastWord : Prop :=
  ∀ (rx : List Byte) (s t : State), rx.length = 60 → exec (.measParse rx) s = .next t →
    (∀ i, i < 10 → Assembled rx i → (∀ k, i < k → k < 10 → ¬ Assembled rx k) →
      t.w = wordAt rx i ∧ t.written.w = true) ∧
    ((∀ i, i < 10 → ¬ Assembled rx i) → t.w = s.w ∧ t.written.w = s.written.w)

/-- 44_measurement.md R106, 45_environment.md R119 and 70_reset_and_hazards.md R167: after MEAS.PARSE `COMPLETE` is 1 exactly when
the three validity flags are, and the Sample the host makes from it is the ten values when `COMPLETE` is 1 and the empty one
otherwise. The Sample is the host's, and `publishedSample` and its `none` for the empty Sample are the model's (DESIGN CHOICE,
entry 16). -/
def Obligations.NoPartialSampleIsPublished : Prop :=
  ∀ (rx : List Byte) (s t : State), rx.length = 60 → exec (.measParse rx) s = .next t →
    (t.meas.complete = true ↔ t.meas.sbvMd = true ∧ t.meas.sbvPc = true ∧ t.meas.sbvPs = true) ∧
    ((∀ i, i < 10 → FieldValid rx i) →
      ∃ values, publishedSample t.meas = some values ∧ values.length = 10 ∧
        ∀ i : Fin 10, values[i.val]? = some (decodeFloat s.cfg.tieRule (wordAt rx i))) ∧
    ((∃ i, i < 10 ∧ ¬ FieldValid rx i) → publishedSample t.meas = none)

/-! ### The command wrappers -/

/-- 30_encoding.md R63, R58, for all fifteen wrappers under every command table (entries 10, 11): a wrapper is FRAME.BUILD with
the code of its row and its payload, then the write, then, for a response of a length above 0, the read of that length and the
parse of R63. With calls that return it completes; a frame the assembler refuses ends it with the assembler's fault; a call that
fails is its result, and what comes after that call does not happen; a call that hangs stops it. How a call ends is
`callReturns`, whether the input `transport.calls` or, past its end, the free value says it (entry 9), so that one of the clauses
holds of every state. -/
def Obligations.WrappersRunTheirExpansion : Prop :=
  ∀ (s b : State) (i : Instr) (e : Expansion), expansion s.cfg.commands i = some e →
    exec (.frameBuild e.row.hi e.row.lo (some e.payload)) s = .next b →
    let n := e.row.response.getD 0
    let first := s.transport
    let second := afterCall first
    let wrote (tr : Transport) (tx : List Byte) : State :=
      { b with transport := { tr with sent := s.transport.sent ++ [tx] } }
    (∀ f, b.reply = .fault f → exec i s = .next b) ∧
    ∀ tx, b.reply = .frame tx →
      (n = 0 → callReturns first = true → exec i s = .next (wrote second tx)) ∧
      (n ≠ 0 → callReturns first = true → callReturns second = true →
        let read : State :=
          wrote { afterCall second with inbox := s.transport.inbox.drop n,
                                        freeBytes := s.transport.freeBytes + (n - s.transport.inbox.length) } tx
        ∃ t, exec i s = .next t ∧ exec (e.parse (readBytes s.transport n)) read = .next t) ∧
      (callReturns first = false → first.calls.head? ≠ some .hangs →
        exec i s = .next { b with transport := second, reply := .transportFailure }) ∧
      (n ≠ 0 → callReturns first = true → callReturns second = false → second.calls.head? ≠ some .hangs →
        exec i s = .next { wrote (afterCall second) tx with reply := .transportFailure }) ∧
      (first.calls.head? = some .hangs → exec i s = .fault .transportHung) ∧
      (n ≠ 0 → callReturns first = true → second.calls.head? = some .hangs → exec i s = .fault .transportHung)

/-- 30_encoding.md R63, R58, for the seven wrappers that take no operand and have no response, under the command table as printed:
when the write returns (and, for the start command, the bound admits its two payload bytes) the wrapper completes; the frame of its row is the one frame more
that was sent, it is the reply, and besides the registers FRAME.BUILD writes nothing changes. -/
def Obligations.CommandsWithoutResponseSendTheirFrame : Prop :=
  ∀ (s : State) (cs : List CallOutcome), s.cfg.commands = CommandTable.default → s.transport.calls = .returns :: cs →
    let sent (tx : List Byte) : State :=
      { s with idx := 0, reply := .frame tx,
               transport := { s.transport with calls := cs, sent := s.transport.sent ++ [tx] } }
    exec .cmdStopMeasurement s = .next (sent [0x01, 0x04]) ∧
    exec .cmdSleep s = .next (sent [0x10, 0x01]) ∧
    exec .cmdWakeup s = .next (sent [0x11, 0x03]) ∧
    exec .cmdStartFanCleaning s = .next (sent [0x56, 0x07]) ∧
    exec .cmdClearStatus s = .next (sent [0xD2, 0x10]) ∧
    exec .cmdReset s = .next (sent [0xD3, 0x04]) ∧
    (Within 2 s.cfg.maxPayloadLen →
      exec .cmdStartMeasurement s = .next
        { sent [0xD0, 0x10, 0x03, 0x00, 0xAC] with d0 := 0x03, d1 := 0x00, crc := 0xAC, idx := 2 })

/-- 30_encoding.md R63, R58 row 9, for CMD.WRITE_AUTOCLEAN under the command table as printed, which states no response length for
it and so no read (entry 11): when the write returns and the bound admits four payload bytes it
completes, and what was sent is the code 80 04 with the interval big-endian in two checksummed data blocks; besides the
registers FRAME.BUILD writes nothing changes. -/
def Obligations.WriteAutocleanSendsTheInterval : Prop :=
  ∀ (s : State) (cs : List CallOutcome) (s3 s2 s1 s0 : Byte), s.cfg.commands = CommandTable.default →
    s.transport.calls = .returns :: cs →
    Within 4 s.cfg.maxPayloadLen →
    let tx : List Byte := [0x80, 0x04, s3, s2, refChecksum s3 s2, s1, s0, refChecksum s1 s0]
    exec (.cmdWriteAutoclean (s3 ++ s2 ++ s1 ++ s0)) s = .next
      { s with d0 := s1, d1 := s0, crc := refChecksum s1 s0, idx := 4, reply := .frame tx,
               transport := { s.transport with calls := cs, sent := s.transport.sent ++ [tx] } }

/-- 45_environment.md R114 (95_test_vectors.md P5): "writing N days then reading back yields `N * 86400` seconds". The frame the
write sends, less its two command bytes, read back as the field of the read command, is the word N * 86400, for every N that
fits, under the command table as printed (entry 11). `callResult` is a function of the host (entry 16). -/
def Obligations.AutocleanIntervalRoundTrip : Prop :=
  ∀ (days : Nat) (s s' : State) (cs : List CallOutcome), days ≤ 49710 →
    s.cfg.commands = CommandTable.default → s.transport.calls = .returns :: cs → Within 4 s.cfg.maxPayloadLen →
    ∃ (t t' : State) (tx : List Byte),
      exec (.cmdWriteAutoclean (BitVec.ofNat 32 (intervalSeconds days))) s = .next t ∧
      t.transport.sent = s.transport.sent ++ [tx] ∧
      exec (.fieldParse (tx.drop 2)) s' = .next t' ∧ t'.w.toNat = days * 86400 ∧
      callResult t'.reply = .word t'.w

/-- 30_encoding.md R63, R58, for the seven wrappers with a response, under the command table as printed: when the write and the read
return, and the bound admits
the response, the wrapper completes exactly as the row's parse does on the bytes read, in the state FRAME.BUILD, the write and
the read leave, whatever the bytes are. -/
def Obligations.QueriesParseTheirResponse : Prop :=
  ∀ (s : State) (cs : List CallOutcome), s.cfg.commands = CommandTable.default →
    s.transport.calls = .returns :: .returns :: cs →
    let rx (n : Nat) : List Byte := readBytes s.transport n
    let asked (hi lo : Byte) (n : Nat) : State :=
      { s with idx := 0, reply := .frame [hi, lo],
               transport := { s.transport with
                 calls := cs, inbox := s.transport.inbox.drop n,
                 freeBytes := s.transport.freeBytes + (n - s.transport.inbox.length),
                 sent := s.transport.sent ++ [[hi, lo]] } }
    (Within 3 s.cfg.maxResponseLen → ∃ t tr, exec .cmdReadDataReady s = .next t ∧
      exec (.frameParse (rx 3)) (asked 0x02 0x02 3) = .next t ∧ t.reply = .triplets tr ∧ tr.length = 1) ∧
    (Within 3 s.cfg.maxResponseLen → ∃ t tr, exec .cmdFirmwareVersion s = .next t ∧
      exec (.frameParse (rx 3)) (asked 0xD1 0x00 3) = .next t ∧ t.reply = .triplets tr ∧ tr.length = 1) ∧
    (Within 12 s.cfg.maxResponseLen → ∃ t tr, exec .cmdProductType s = .next t ∧
      exec (.frameParse (rx 12)) (asked 0xD0 0x02 12) = .next t ∧ t.reply = .triplets tr ∧ tr.length = 4) ∧
    (Within 48 s.cfg.maxResponseLen → ∃ t tr, exec .cmdSerialNumber s = .next t ∧
      exec (.frameParse (rx 48)) (asked 0xD0 0x33 48) = .next t ∧ t.reply = .triplets tr ∧ tr.length = 16) ∧
    (∃ t, exec .cmdReadAutoclean s = .next t ∧ exec (.fieldParse (rx 6)) (asked 0x80 0x04 6) = .next t ∧
      (t.reply = .word t.w ∨ t.reply = .mismatch t.failt)) ∧
    (∃ t, exec .cmdReadStatus s = .next t ∧ exec (.fieldParse (rx 6)) (asked 0xD2 0x06 6) = .next t ∧
      (t.reply = .word t.w ∨ t.reply = .mismatch t.failt)) ∧
    (∃ t, exec .cmdReadMeasurement s = .next t ∧ exec (.measParse (rx 60)) (asked 0x03 0x00 60) = .next t ∧
      t.reply = .measurement t.meas)

/-- 45_environment.md R110, R128, 60_exceptions.md R140 (b), with entries 9 and 10, for all fifteen wrappers under the command table as
printed: a write that fails
propagates as the wrapper's result, sends nothing and reads nothing; a read that fails comes after the frame was sent and
parses nothing; a call that hangs stops the wrapper. -/
def Obligations.TransportFailurePropagates : Prop :=
  ∀ (s : State) (cs : List CallOutcome), s.cfg.commands = CommandTable.default →
    (s.transport.calls = .fails :: cs →
      let failed : State :=
        { s with idx := 0, reply := .transportFailure, transport := { s.transport with calls := cs } }
      (∀ i ∈ [Instr.cmdStopMeasurement, .cmdReadDataReady, .cmdReadMeasurement, .cmdSleep, .cmdWakeup,
          .cmdStartFanCleaning, .cmdReadAutoclean, .cmdProductType, .cmdSerialNumber, .cmdFirmwareVersion,
          .cmdReadStatus, .cmdClearStatus, .cmdReset],
        exec i s = .next failed) ∧
      (Within 2 s.cfg.maxPayloadLen →
        exec .cmdStartMeasurement s = .next { failed with d0 := 0x03, d1 := 0x00, crc := 0xAC, idx := 2 }) ∧
      ∀ s3 s2 s1 s0 : Byte, Within 4 s.cfg.maxPayloadLen →
        exec (.cmdWriteAutoclean (s3 ++ s2 ++ s1 ++ s0)) s = .next
          { failed with d0 := s1, d1 := s0, crc := refChecksum s1 s0, idx := 4 }) ∧
    (s.transport.calls = .returns :: .fails :: cs →
      ∀ q ∈ [(Instr.cmdReadDataReady, [(0x02 : Byte), 0x02]), (.cmdReadMeasurement, [0x03, 0x00]),
        (.cmdReadAutoclean, [0x80, 0x04]), (.cmdProductType, [0xD0, 0x02]), (.cmdSerialNumber, [0xD0, 0x33]),
        (.cmdFirmwareVersion, [0xD1, 0x00]), (.cmdReadStatus, [0xD2, 0x06])],
      exec q.1 s = .next { s with idx := 0, reply := .transportFailure,
                                  transport := { s.transport with
                                    calls := cs, sent := s.transport.sent ++ [q.2] } }) ∧
    (s.transport.calls = .hangs :: cs →
      (∀ i ∈ [Instr.cmdStopMeasurement, .cmdReadDataReady, .cmdReadMeasurement, .cmdSleep, .cmdWakeup,
          .cmdStartFanCleaning, .cmdReadAutoclean, .cmdProductType, .cmdSerialNumber, .cmdFirmwareVersion,
          .cmdReadStatus, .cmdClearStatus, .cmdReset],
        exec i s = .fault .transportHung) ∧
      (Within 2 s.cfg.maxPayloadLen → exec .cmdStartMeasurement s = .fault .transportHung) ∧
      ∀ seconds : Word, Within 4 s.cfg.maxPayloadLen → exec (.cmdWriteAutoclean seconds) s = .fault .transportHung) ∧
    (s.transport.calls = .returns :: .hangs :: cs →
      ∀ i ∈ [Instr.cmdReadDataReady, .cmdReadMeasurement, .cmdReadAutoclean, .cmdProductType, .cmdSerialNumber,
          .cmdFirmwareVersion, .cmdReadStatus],
        exec i s = .fault .transportHung)

/-- 41_frame_build.md R80, 42_frame_parse.md R85 in 30_encoding.md R63's expansions, under the command table as printed, with
entry 10: a frame the assembler refuses is not sent, and a response above the bound faults after it was read: the frame was sent,
both calls and the bytes were taken, `ERR` takes 3 if it held 0, and besides `IDX`, which FRAME.BUILD wrote, nothing changes. -/
def Obligations.RefusedFramesAreNotSent : Prop :=
  (∀ s : State, s.cfg.commands = CommandTable.default → ¬ Within 2 s.cfg.maxPayloadLen →
    exec .cmdStartMeasurement s =
      .next { s with err := if s.err = 0 then 2 else s.err, reply := .fault (.payloadLength 2) }) ∧
  (∀ (s : State) (seconds : Word), ¬ Within 4 s.cfg.maxPayloadLen →
    exec (.cmdWriteAutoclean seconds) s =
      .next { s with err := if s.err = 0 then 2 else s.err, reply := .fault (.payloadLength 4) }) ∧
  ∀ (s : State) (cs : List CallOutcome), s.cfg.commands = CommandTable.default →
    s.transport.calls = .returns :: .returns :: cs →
    ∀ q ∈ [(Instr.cmdReadDataReady, 3, [(0x02 : Byte), 0x02]), (.cmdProductType, 12, [0xD0, 0x02]),
      (.cmdSerialNumber, 48, [0xD0, 0x33]), (.cmdFirmwareVersion, 3, [0xD1, 0x00])],
      ¬ Within q.2.1 s.cfg.maxResponseLen →
      exec q.1 s = .next
        { s with idx := 0, err := if s.err = 0 then 3 else s.err, reply := .fault (.frameLength q.2.1),
                 transport := { s.transport with
                   calls := cs, inbox := s.transport.inbox.drop q.2.1,
                   freeBytes := s.transport.freeBytes + (q.2.1 - s.transport.inbox.length),
                   sent := s.transport.sent ++ [q.2.2] } }

/-- 45_environment.md R110, with entry 9: unless the input says that a call hangs, every wrapper ends in a next state, from every
state, whether or not its calls succeed. -/
def Obligations.WrappersEndUnlessTheTransportHangs : Prop :=
  ∀ (i : Instr) (s : State), isOperation i = false → .hangs ∉ s.transport.calls.take 2 → ∃ t, exec i s = .next t

/-- 20_memory.md R31 and 45_environment.md R110, with entry 8: a read of `n` bytes that returns delivers exactly `n` bytes, the
inbox's first; what it does not cover is free. -/
def Obligations.ReadsDeliverTheBytesAskedFor : Prop :=
  ∀ (t : Transport) (n : Nat), (readBytes t n).length = n ∧
    (∀ k, k < n → k < t.inbox.length → (readBytes t n)[k]? = t.inbox[k]?)

/-- 45_environment.md R111, R119, for each of the three parses a call can end in: when any triplet of the response is invalid the
call returns none of its data, but a checksum mismatch after FRAME.PARSE and FIELD.PARSE, and the empty Sample after MEAS.PARSE;
otherwise it returns the data bytes in input order, the word, and the ten decoded values. What a call returns is `callResult`, a
function of the host; the Sample for a measurement and the `none` of the empty one are the model's choice (entry 16). -/
def Obligations.InvalidTripletsYieldNoData : Prop :=
  (∀ (rx : List Byte) (s t : State), rx.length % 3 = 0 → Within rx.length s.cfg.maxResponseLen →
    exec (.frameParse rx) s = .next t →
    ((∃ k, k < rx.length / 3 ∧ ¬ ValidAt rx k) → callResult t.reply = .checksumMismatch) ∧
    ((∀ k, k < rx.length / 3 → ValidAt rx k) → ∃ data, callResult t.reply = .data data ∧
      data.length = 2 * (rx.length / 3) ∧
      ∀ k, k < rx.length / 3 →
        data[2 * k]? = some (byteAt rx (3 * k)) ∧ data[2 * k + 1]? = some (byteAt rx (3 * k + 1)))) ∧
  (∀ (rx : List Byte) (s t : State), rx.length = 6 → exec (.fieldParse rx) s = .next t →
    (¬ FieldValid rx 0 → callResult t.reply = .checksumMismatch) ∧
    (FieldValid rx 0 → callResult t.reply = .word (wordAt rx 0))) ∧
  (∀ (rx : List Byte) (s t : State), rx.length = 60 → exec (.measParse rx) s = .next t →
    ((∃ i, i < 10 ∧ ¬ FieldValid rx i) → callResult t.reply = .sample none) ∧
    ((∀ i, i < 10 → FieldValid rx i) → ∃ values, callResult t.reply = .sample (some values) ∧ values.length = 10 ∧
      ∀ i : Fin 10, values[i.val]? = some (decodeFloat s.cfg.tieRule (wordAt rx i))))

/-- 45_environment.md R120, R123 (a host function): after publishing any samples into an empty handoff buffer it holds the 20
most recent in order (all of them when fewer), the latest is the last one published, and `getMeasurement` answers it, or the
empty Sample (`none`: DESIGN CHOICE, entry 16) when nothing has been published. -/
def Obligations.HandoffBufferKeepsTheLatest : Prop :=
  ∀ xs : List Sample,
    xs.foldl publish [] = xs.drop (xs.length - 20) ∧ latest (xs.foldl publish []) = xs.getLast? ∧
    getMeasurement (xs.foldl publish []) = xs.getLast?.getD none

/-! ### The whole machine -/

/-- The invariant of Safety.lean holds at reset (10_state.md R23; entry 3 for the registers the spec leaves unspecified). -/
def Obligations.InvariantHoldsAtReset : Prop := Inv State.reset

/-- 10_state.md R15, R16, R18, R19, R20: every step from a state that meets the invariant leads to one that meets it. -/
def Obligations.StepKeepsTheInvariant : Prop := ∀ s t : State, Inv s → step s = .next t → Inv t

/-- 00_scope.md R4: operations are pure. Performed from any two states with the same model arguments, an operation of the block
delivers the same reply, and leaves the same values in the result registers it delivers in, whatever an earlier operation left
in the registers (`ERR` among them). -/
def Obligations.OperationsArePure : Prop :=
  ∀ (i : Instr) (s1 s2 t1 t2 : State), isOperation i = true → s1.cfg = s2.cfg →
    exec i s1 = .next t1 → exec i s2 = .next t2 →
    t1.reply = t2.reply ∧
    (∀ m, t1.reply = .measurement m → t1.meas = t2.meas ∧ t1.v = t2.v) ∧
    (∀ r, t1.reply = .float r → t1.fc = t2.fc ∧ t1.fq = t2.fq) ∧
    (∀ c, t1.reply = .checksum c → t1.rcrc = t2.rcrc) ∧
    (∀ v, t1.reply = .validity v → t1.v = t2.v) ∧
    (∀ tr, t1.reply = .triplets tr → tr ≠ [] → t1.v = t2.v) ∧
    (∀ w, t1.reply = .word w → t1.w = t2.w ∧ t1.failt = t2.failt ∧ t1.v = t2.v) ∧
    (∀ f, t1.reply = .mismatch f → t1.failt = t2.failt ∧ t1.v = t2.v)

/-- 10_state.md R17 and 45_environment.md R131 (there is no write path): no instruction changes the model arguments or the
host's list; the block's operations leave the transport alone; a wrapper sends at most one frame and takes none back. -/
def Obligations.OperationsStayInsideTheBlock : Prop :=
  ∀ (i : Instr) (s t : State), exec i s = .next t →
    t.cfg = s.cfg ∧ t.pending = s.pending ∧ (isOperation i = true → t.transport = s.transport) ∧
    (t.transport.sent = s.transport.sent ∨ ∃ tx, t.transport.sent = s.transport.sent ++ [tx])
end

