-- ==== Sys2Proof/Laws/State.lean ====
section
/-! SUPPORT. One lemma per field for each update of a state that the machine makes in one piece; all by rfl. -/

namespace Sys2Proof.Machine

/-! ### Taking a fault -/

@[simp] theorem takeFault_crc (f : BlockFault) (s : State) : (takeFault f s).crc = s.crc := rfl
@[simp] theorem takeFault_d0 (f : BlockFault) (s : State) : (takeFault f s).d0 = s.d0 := rfl
@[simp] theorem takeFault_d1 (f : BlockFault) (s : State) : (takeFault f s).d1 = s.d1 := rfl
@[simp] theorem takeFault_dc (f : BlockFault) (s : State) : (takeFault f s).dc = s.dc := rfl
@[simp] theorem takeFault_idx (f : BlockFault) (s : State) : (takeFault f s).idx = s.idx := rfl
@[simp] theorem takeFault_rcrc (f : BlockFault) (s : State) : (takeFault f s).rcrc = s.rcrc := rfl
@[simp] theorem takeFault_v (f : BlockFault) (s : State) : (takeFault f s).v = s.v := rfl
@[simp] theorem takeFault_w (f : BlockFault) (s : State) : (takeFault f s).w = s.w := rfl
@[simp] theorem takeFault_fc (f : BlockFault) (s : State) : (takeFault f s).fc = s.fc := rfl
@[simp] theorem takeFault_fq (f : BlockFault) (s : State) : (takeFault f s).fq = s.fq := rfl
@[simp] theorem takeFault_failt (f : BlockFault) (s : State) : (takeFault f s).failt = s.failt := rfl
@[simp] theorem takeFault_meas (f : BlockFault) (s : State) : (takeFault f s).meas = s.meas := rfl
@[simp] theorem takeFault_err (f : BlockFault) (s : State) : (takeFault f s).err = errAfter s.err f := rfl
@[simp] theorem takeFault_written (f : BlockFault) (s : State) : (takeFault f s).written = s.written := rfl
@[simp] theorem takeFault_reply (f : BlockFault) (s : State) : (takeFault f s).reply = .fault f := rfl
@[simp] theorem takeFault_pending (f : BlockFault) (s : State) : (takeFault f s).pending = s.pending := rfl
@[simp] theorem takeFault_cfg (f : BlockFault) (s : State) : (takeFault f s).cfg = s.cfg := rfl
@[simp] theorem takeFault_transport (f : BlockFault) (s : State) : (takeFault f s).transport = s.transport := rfl

/-! ### One stride of the parser -/

@[simp] theorem stride_crc (b0 b1 c : Byte) (s : State) :
    (stride b0 b1 c s).crc = crc8 b0 b1 := rfl
@[simp] theorem stride_d0 (b0 b1 c : Byte) (s : State) :
    (stride b0 b1 c s).d0 = b0 := rfl
@[simp] theorem stride_d1 (b0 b1 c : Byte) (s : State) :
    (stride b0 b1 c s).d1 = b1 := rfl
@[simp] theorem stride_dc (b0 b1 c : Byte) (s : State) :
    (stride b0 b1 c s).dc = c := rfl
@[simp] theorem stride_idx (b0 b1 c : Byte) (s : State) :
    (stride b0 b1 c s).idx = s.idx + 3 := rfl
@[simp] theorem stride_rcrc (b0 b1 c : Byte) (s : State) :
    (stride b0 b1 c s).rcrc = s.rcrc := rfl
@[simp] theorem stride_v (b0 b1 c : Byte) (s : State) :
    (stride b0 b1 c s).v = tripletValid b0 b1 c := rfl
@[simp] theorem stride_w (b0 b1 c : Byte) (s : State) :
    (stride b0 b1 c s).w = s.w := rfl
@[simp] theorem stride_fc (b0 b1 c : Byte) (s : State) :
    (stride b0 b1 c s).fc = s.fc := rfl
@[simp] theorem stride_fq (b0 b1 c : Byte) (s : State) :
    (stride b0 b1 c s).fq = s.fq := rfl
@[simp] theorem stride_failt (b0 b1 c : Byte) (s : State) :
    (stride b0 b1 c s).failt = s.failt := rfl
@[simp] theorem stride_meas (b0 b1 c : Byte) (s : State) :
    (stride b0 b1 c s).meas = s.meas := rfl
@[simp] theorem stride_err (b0 b1 c : Byte) (s : State) :
    (stride b0 b1 c s).err = s.err := rfl
@[simp] theorem stride_written (b0 b1 c : Byte) (s : State) :
    (stride b0 b1 c s).written = { s.written with v := true } := rfl
@[simp] theorem stride_reply (b0 b1 c : Byte) (s : State) :
    (stride b0 b1 c s).reply = s.reply := rfl
@[simp] theorem stride_pending (b0 b1 c : Byte) (s : State) :
    (stride b0 b1 c s).pending = s.pending := rfl
@[simp] theorem stride_cfg (b0 b1 c : Byte) (s : State) :
    (stride b0 b1 c s).cfg = s.cfg := rfl
@[simp] theorem stride_transport (b0 b1 c : Byte) (s : State) :
    (stride b0 b1 c s).transport = s.transport := rfl

/-! ### One data block of the assembler -/

@[simp] theorem buildBlock_crc (b0 b1 : Byte) (s : State) :
    (buildBlock b0 b1 s).crc = crc8 b0 b1 := rfl
@[simp] theorem buildBlock_d0 (b0 b1 : Byte) (s : State) :
    (buildBlock b0 b1 s).d0 = b0 := rfl
@[simp] theorem buildBlock_d1 (b0 b1 : Byte) (s : State) :
    (buildBlock b0 b1 s).d1 = b1 := rfl
@[simp] theorem buildBlock_dc (b0 b1 : Byte) (s : State) :
    (buildBlock b0 b1 s).dc = s.dc := rfl
@[simp] theorem buildBlock_idx (b0 b1 : Byte) (s : State) :
    (buildBlock b0 b1 s).idx = s.idx + 2 := rfl
@[simp] theorem buildBlock_rcrc (b0 b1 : Byte) (s : State) :
    (buildBlock b0 b1 s).rcrc = s.rcrc := rfl
@[simp] theorem buildBlock_v (b0 b1 : Byte) (s : State) :
    (buildBlock b0 b1 s).v = s.v := rfl
@[simp] theorem buildBlock_w (b0 b1 : Byte) (s : State) :
    (buildBlock b0 b1 s).w = s.w := rfl
@[simp] theorem buildBlock_fc (b0 b1 : Byte) (s : State) :
    (buildBlock b0 b1 s).fc = s.fc := rfl
@[simp] theorem buildBlock_fq (b0 b1 : Byte) (s : State) :
    (buildBlock b0 b1 s).fq = s.fq := rfl
@[simp] theorem buildBlock_failt (b0 b1 : Byte) (s : State) :
    (buildBlock b0 b1 s).failt = s.failt := rfl
@[simp] theorem buildBlock_meas (b0 b1 : Byte) (s : State) :
    (buildBlock b0 b1 s).meas = s.meas := rfl
@[simp] theorem buildBlock_err (b0 b1 : Byte) (s : State) :
    (buildBlock b0 b1 s).err = s.err := rfl
@[simp] theorem buildBlock_written (b0 b1 : Byte) (s : State) :
    (buildBlock b0 b1 s).written = s.written := rfl
@[simp] theorem buildBlock_reply (b0 b1 : Byte) (s : State) :
    (buildBlock b0 b1 s).reply = s.reply := rfl
@[simp] theorem buildBlock_pending (b0 b1 : Byte) (s : State) :
    (buildBlock b0 b1 s).pending = s.pending := rfl
@[simp] theorem buildBlock_cfg (b0 b1 : Byte) (s : State) :
    (buildBlock b0 b1 s).cfg = s.cfg := rfl
@[simp] theorem buildBlock_transport (b0 b1 : Byte) (s : State) :
    (buildBlock b0 b1 s).transport = s.transport := rfl

/-! ### The reset event -/

@[simp] theorem resetEvent_crc (s : State) : (resetEvent s).crc = State.reset.crc := rfl
@[simp] theorem resetEvent_d0 (s : State) : (resetEvent s).d0 = State.reset.d0 := rfl
@[simp] theorem resetEvent_d1 (s : State) : (resetEvent s).d1 = State.reset.d1 := rfl
@[simp] theorem resetEvent_dc (s : State) : (resetEvent s).dc = State.reset.dc := rfl
@[simp] theorem resetEvent_idx (s : State) : (resetEvent s).idx = State.reset.idx := rfl
@[simp] theorem resetEvent_rcrc (s : State) : (resetEvent s).rcrc = State.reset.rcrc := rfl
@[simp] theorem resetEvent_v (s : State) : (resetEvent s).v = State.reset.v := rfl
@[simp] theorem resetEvent_w (s : State) : (resetEvent s).w = State.reset.w := rfl
@[simp] theorem resetEvent_fc (s : State) : (resetEvent s).fc = State.reset.fc := rfl
@[simp] theorem resetEvent_fq (s : State) : (resetEvent s).fq = State.reset.fq := rfl
@[simp] theorem resetEvent_failt (s : State) : (resetEvent s).failt = State.reset.failt := rfl
@[simp] theorem resetEvent_meas (s : State) : (resetEvent s).meas = State.reset.meas := rfl
@[simp] theorem resetEvent_err (s : State) : (resetEvent s).err = State.reset.err := rfl
@[simp] theorem resetEvent_written (s : State) : (resetEvent s).written = State.reset.written := rfl
@[simp] theorem resetEvent_reply (s : State) : (resetEvent s).reply = State.reset.reply := rfl
@[simp] theorem resetEvent_pending (s : State) : (resetEvent s).pending = s.pending := rfl
@[simp] theorem resetEvent_cfg (s : State) : (resetEvent s).cfg = s.cfg := rfl
@[simp] theorem resetEvent_transport (s : State) : (resetEvent s).transport = s.transport := rfl

end Sys2Proof.Machine
end

