-- ==== Sys2Proof/Laws/Frames.lean ====
section
/-! SUPPORT. What the loops over strides and data blocks can do (spec/41_frame_build.md R80, spec/42_frame_parse.md R85): the
shape of their results, and which registers they write. -/

namespace Sys2Proof.Machine

/-! ### Induction by strides and by blocks -/

theorem whole_strides_cons {b0 b1 c : Byte} {rest : List Byte} (h : rest.length % 3 = 0) :
    (b0 :: b1 :: c :: rest).length % 3 = 0 := by
  simp only [List.length_cons]; omega

theorem whole_blocks_cons {b0 b1 : Byte} {rest : List Byte} (h : rest.length % 2 = 0) :
    (b0 :: b1 :: rest).length % 2 = 0 := by
  simp only [List.length_cons]; omega

/-- Whole strides are empty or begin with one. -/
theorem strides_induction {motive : (rx : List Byte) → rx.length % 3 = 0 → Prop} (nil : motive [] rfl)
    (cons : ∀ (b0 b1 c : Byte) (rest : List Byte) (h : rest.length % 3 = 0), motive rest h →
      motive (b0 :: b1 :: c :: rest) (whole_strides_cons h)) :
    ∀ (rx : List Byte) (h : rx.length % 3 = 0), motive rx h
  | [], _ => nil
  | [_], h => by simp at h
  | [_, _], h => by simp at h
  | b0 :: b1 :: c :: rest, h =>
    have h' : rest.length % 3 = 0 := by simp only [List.length_cons] at h; omega
    cons b0 b1 c rest h' (strides_induction nil cons rest h')

/-- Whole data blocks are empty or begin with one. -/
theorem blocks_induction {motive : (pay : List Byte) → pay.length % 2 = 0 → Prop} (nil : motive [] rfl)
    (cons : ∀ (b0 b1 : Byte) (rest : List Byte) (h : rest.length % 2 = 0), motive rest h →
      motive (b0 :: b1 :: rest) (whole_blocks_cons h)) :
    ∀ (pay : List Byte) (h : pay.length % 2 = 0), motive pay h
  | [], _ => nil
  | [_], h => by simp at h
  | b0 :: b1 :: rest, h =>
    have h' : rest.length % 2 = 0 := by simp only [List.length_cons] at h; omega
    cons b0 b1 rest h' (blocks_induction nil cons rest h')

/-! ### The parser's results -/

@[simp] theorem parseTriplets_nil : parseTriplets [] = [] := rfl

@[simp] theorem parseTriplets_cons (b0 b1 c : Byte) (rest : List Byte) :
    parseTriplets (b0 :: b1 :: c :: rest) = ⟨b0, b1, tripletValid b0 b1 c⟩ :: parseTriplets rest := rfl

theorem parseTriplets_length (rx : List Byte) (h : rx.length % 3 = 0) :
    (parseTriplets rx).length = rx.length / 3 := by
  induction rx, h using strides_induction with
  | nil => rfl
  | cons b0 b1 c rest _ ih => simp only [parseTriplets_cons, List.length_cons, ih]; omega

theorem parseTriplets_append (xs ys : List Byte) (h : xs.length % 3 = 0) :
    parseTriplets (xs ++ ys) = parseTriplets xs ++ parseTriplets ys := by
  induction xs, h using strides_induction with
  | nil => rfl
  | cons b0 b1 c rest _ ih => simp [ih]

/-- Entry `k` is made of the bytes at `3k`, `3k + 1` and `3k + 2` (20_memory.md R35). -/
theorem parseTriplets_getElem? (rx : List Byte) (h : rx.length % 3 = 0) (k : Nat) (hk : k < rx.length / 3) :
    (parseTriplets rx)[k]? = some
      ⟨rx.getD (3 * k) 0, rx.getD (3 * k + 1) 0,
        tripletValid (rx.getD (3 * k) 0) (rx.getD (3 * k + 1) 0) (rx.getD (3 * k + 2) 0)⟩ := by
  induction rx, h using strides_induction generalizing k with
  | nil => simp at hk
  | cons b0 b1 c rest _ ih =>
    cases k with
    | zero => simp
    | succ k =>
      have hk' : k < rest.length / 3 := by simp only [List.length_cons] at hk; omega
      have e : 3 * (k + 1) = 3 * k + 1 + 1 + 1 := by omega
      simpa [e] using ih k hk'

/-! ### The parser's registers -/

@[simp] theorem afterStrides_nil (s : State) : afterStrides [] s = s := rfl

@[simp] theorem afterStrides_cons (b0 b1 c : Byte) (rest : List Byte) (s : State) :
    afterStrides (b0 :: b1 :: c :: rest) s = afterStrides rest (stride b0 b1 c s) := rfl

/-- The strides write `D0`, `D1`, `DC`, `CRC`, `V` and `IDX`, and nothing else. -/
theorem afterStrides_frame (rx : List Byte) (s : State) :
    afterStrides rx s =
      { s with d0 := (afterStrides rx s).d0, d1 := (afterStrides rx s).d1, dc := (afterStrides rx s).dc,
               crc := (afterStrides rx s).crc, v := (afterStrides rx s).v, idx := (afterStrides rx s).idx,
               written := { s.written with v := (afterStrides rx s).written.v } } := by
  fun_induction afterStrides rx s with
  | case1 b0 b1 c rest s ih => exact ih
  | case2 => rfl

theorem afterStrides_append (xs ys : List Byte) (h : xs.length % 3 = 0) (s : State) :
    afterStrides (xs ++ ys) s = afterStrides ys (afterStrides xs s) := by
  induction xs, h using strides_induction generalizing s with
  | nil => rfl
  | cons b0 b1 c rest _ ih => simp [ih]

/-- `IDX` is one past the last byte consumed (10_state.md R14). -/
theorem afterStrides_idx (rx : List Byte) (h : rx.length % 3 = 0) (s : State) :
    (afterStrides rx s).idx = s.idx + rx.length := by
  induction rx, h using strides_induction generalizing s with
  | nil => rfl
  | cons b0 b1 c rest _ ih => simp only [afterStrides_cons, ih, stride_idx, List.length_cons]; omega

/-- The registers after whole strides are those of the last one. -/
theorem afterStrides_last (front : List Byte) (h : front.length % 3 = 0) (b0 b1 c : Byte) (s : State) :
    afterStrides (front ++ [b0, b1, c]) s = stride b0 b1 c (afterStrides front s) := by
  simp [afterStrides_append front _ h]

/-! ### The assembler -/

@[simp] theorem frameBody_nil : frameBody [] = [] := rfl

@[simp] theorem frameBody_cons (b0 b1 : Byte) (rest : List Byte) :
    frameBody (b0 :: b1 :: rest) = b0 :: b1 :: crc8 b0 b1 :: frameBody rest := rfl

theorem frameBody_length (pay : List Byte) (h : pay.length % 2 = 0) :
    (frameBody pay).length = 3 * (pay.length / 2) := by
  induction pay, h using blocks_induction with
  | nil => rfl
  | cons b0 b1 rest _ ih => simp only [frameBody_cons, List.length_cons, ih]; omega

/-- Data block `j` and its checksum (30_encoding.md R53). -/
theorem frameBody_getElem? (pay : List Byte) (h : pay.length % 2 = 0) (j : Nat) (hj : j < pay.length / 2) :
    (frameBody pay)[3 * j]? = some (pay.getD (2 * j) 0) ∧
    (frameBody pay)[3 * j + 1]? = some (pay.getD (2 * j + 1) 0) ∧
    (frameBody pay)[3 * j + 2]? = some (crc8 (pay.getD (2 * j) 0) (pay.getD (2 * j + 1) 0)) := by
  induction pay, h using blocks_induction generalizing j with
  | nil => simp at hj
  | cons b0 b1 rest _ ih =>
    cases j with
    | zero => simp
    | succ j =>
      have hj' : j < rest.length / 2 := by simp only [List.length_cons] at hj; omega
      have e : 3 * (j + 1) = 3 * j + 1 + 1 + 1 := by omega
      have e' : 2 * (j + 1) = 2 * j + 1 + 1 := by omega
      simpa [e, e'] using ih j hj'

@[simp] theorem afterBlocks_nil (s : State) : afterBlocks [] s = s := rfl

@[simp] theorem afterBlocks_cons (b0 b1 : Byte) (rest : List Byte) (s : State) :
    afterBlocks (b0 :: b1 :: rest) s = afterBlocks rest (buildBlock b0 b1 s) := rfl

/-- The data blocks write `D0`, `D1`, `CRC` and `IDX`, and nothing else. -/
theorem afterBlocks_frame (pay : List Byte) (s : State) :
    afterBlocks pay s =
      { s with d0 := (afterBlocks pay s).d0, d1 := (afterBlocks pay s).d1, crc := (afterBlocks pay s).crc,
               idx := (afterBlocks pay s).idx } := by
  fun_induction afterBlocks pay s with
  | case1 b0 b1 rest s ih => exact ih
  | case2 => rfl

theorem afterBlocks_append (xs ys : List Byte) (h : xs.length % 2 = 0) (s : State) :
    afterBlocks (xs ++ ys) s = afterBlocks ys (afterBlocks xs s) := by
  induction xs, h using blocks_induction generalizing s with
  | nil => rfl
  | cons b0 b1 rest _ ih => simp [ih]

theorem afterBlocks_idx (pay : List Byte) (h : pay.length % 2 = 0) (s : State) :
    (afterBlocks pay s).idx = s.idx + pay.length := by
  induction pay, h using blocks_induction generalizing s with
  | nil => rfl
  | cons b0 b1 rest _ ih => simp only [afterBlocks_cons, ih, buildBlock_idx, List.length_cons]; omega

/-! ### The operations of Frame.lean, case by case -/

theorem buildFrame_accepts {s : State} {pay : List Byte} (h : badPayloadLength s.cfg pay.length = false) (hi lo : Byte) :
    buildFrame hi lo pay s = { afterBlocks pay { s with idx := 0 } with reply := .frame (frameOf hi lo pay) } := by
  simp [buildFrame, h]

theorem buildFrame_refuses {s : State} {pay : List Byte} (h : badPayloadLength s.cfg pay.length = true) (hi lo : Byte) :
    buildFrame hi lo pay s = takeFault (.payloadLength pay.length) s := by
  simp [buildFrame, h]

/-- FRAME.BUILD writes its working registers, `ERR` and the reply, and nothing else. -/
theorem buildFrame_frame (hi lo : Byte) (pay : List Byte) (s : State) :
    buildFrame hi lo pay s =
      { s with d0 := (buildFrame hi lo pay s).d0, d1 := (buildFrame hi lo pay s).d1,
               crc := (buildFrame hi lo pay s).crc, idx := (buildFrame hi lo pay s).idx,
               err := (buildFrame hi lo pay s).err, reply := (buildFrame hi lo pay s).reply } := by
  cases h : badPayloadLength s.cfg pay.length with
  | true => rw [buildFrame_refuses h]; rfl
  | false => rw [buildFrame_accepts h, afterBlocks_frame]

theorem parseFrame_accepts {s : State} {rx : List Byte} (h : badFrameLength s.cfg rx.length = false) :
    parseFrame rx s = { afterStrides rx { s with idx := 0 } with reply := .triplets (parseTriplets rx) } := by
  simp [parseFrame, h]

theorem parseFrame_refuses {s : State} {rx : List Byte} (h : badFrameLength s.cfg rx.length = true) :
    parseFrame rx s = takeFault (.frameLength rx.length) s := by
  simp [parseFrame, h]

/-- A field of six bytes, as the per-field step sees it (42_frame_parse.md R87). -/
theorem fieldResult_six (b0 b1 c0 b2 b3 c1 : Byte) :
    fieldResult [b0, b1, c0, b2, b3, c1] =
      if tripletValid b0 b1 c0 && tripletValid b2 b3 c1 then .word (wordOfBytes b0 b1 b2 b3)
      else .mismatch (failtOf (tripletValid b0 b1 c0) (tripletValid b2 b3 c1)) := rfl

theorem parseField_accepts {rx : List Byte} (h : rx.length = 6) (s : State) :
    parseField rx s = deliverField (fieldResult rx) (afterStrides rx { s with idx := 0 }) := by
  simp [parseField, fieldLen, h]

theorem parseField_refuses {rx : List Byte} (h : rx.length ≠ 6) (s : State) :
    parseField rx s = takeFault (.frameLength rx.length) s := by
  simp [parseField, fieldLen, h]

end Sys2Proof.Machine
end

