-- ==== Sys2Proof/Laws/Measurement.lean ====
section
/-! SUPPORT. What the scan of a sub-block can do (spec/44_measurement.md R103) and which registers it writes. -/

namespace Sys2Proof.Machine

theorem fieldBytes_length (rx : List Byte) (i : Nat) (h : 6 * i + 6 ≤ rx.length) : (fieldBytes rx i).length = 6 := by
  simp only [fieldBytes, memRead, fieldLen, List.length_take, List.length_drop]; omega

/-- The six bytes of field `i` (20_memory.md R35). -/
theorem fieldBytes_eq (rx : List Byte) (i : Nat) (h : 6 * i + 6 ≤ rx.length) :
    fieldBytes rx i = [rx.getD (6 * i) 0, rx.getD (6 * i + 1) 0, rx.getD (6 * i + 2) 0,
                       rx.getD (6 * i + 3) 0, rx.getD (6 * i + 4) 0, rx.getD (6 * i + 5) 0] := by
  apply List.ext_getElem?
  intro k
  simp only [fieldBytes, memRead, fieldLen, List.getElem?_take, List.getElem?_drop]
  rcases Nat.lt_or_ge k 6 with hk | hk
  · have hl : 6 * i + k < rx.length := by omega
    rw [if_pos hk, List.getElem?_eq_getElem hl, ← List.getD_eq_getElem rx 0 hl]
    interval_cases k <;> rfl
  · rw [if_neg (by omega)]
    exact (List.getElem?_eq_none (by simpa using hk)).symm

/-- A sub-block is valid exactly when every field of it gives a word. -/
theorem scanReport_valid (rx : List Byte) (count i : Nat) :
    (scanReport rx count i).valid = true ↔
      ∀ j, i ≤ j → j < i + count → ∃ w, fieldResult (fieldBytes rx j) = .word w := by
  fun_induction scanReport rx count i with
  | case1 i => simp; omega
  | case2 count i w h ih =>
    rw [ih]
    constructor
    · intro hall j h1 h2
      rcases Nat.eq_or_lt_of_le h1 with rfl | h1
      · exact ⟨w, h⟩
      · exact hall j h1 (by omega)
    · intro hall j h1 h2
      exact hall j (by omega) (by omega)
  | case3 count i t h =>
    simp only [Bool.false_eq_true, false_iff, not_forall]
    exact ⟨i, le_refl i, by omega, by simp [h]⟩

/-- The report of a valid sub-block (10_state.md R20). -/
theorem scanReport_of_valid (rx : List Byte) (count i : Nat) (h : (scanReport rx count i).valid = true) :
    (scanReport rx count i).failf = 15 ∧ (scanReport rx count i).failt = 0 := by
  fun_induction scanReport rx count i with
  | case1 => exact ⟨rfl, rfl⟩
  | case2 _ _ _ _ ih => exact ih h
  | case3 => simp at h

/-- The report of an invalid sub-block is its first failing field (44_measurement.md R103, R108). -/
theorem scanReport_of_invalid (rx : List Byte) (count i : Nat) (h : (scanReport rx count i).valid = false) :
    ∃ j t, i ≤ j ∧ j < i + count ∧ (∀ k, i ≤ k → k < j → ∃ w, fieldResult (fieldBytes rx k) = .word w) ∧
      fieldResult (fieldBytes rx j) = .mismatch t ∧
      (scanReport rx count i).failf = BitVec.ofNat 4 j ∧ (scanReport rx count i).failt = t := by
  fun_induction scanReport rx count i with
  | case1 => simp at h
  | case2 count i w hw ih =>
    obtain ⟨j, t, h1, h2, h3, h4, h5, h6⟩ := ih h
    refine ⟨j, t, by omega, by omega, ?_, h4, h5, h6⟩
    intro k hk1 hk2
    rcases Nat.eq_or_lt_of_le hk1 with rfl | hk1
    · exact ⟨w, hw⟩
    · exact h3 k hk1 hk2
  | case3 count i t ht =>
    exact ⟨i, t, le_refl i, by omega, fun k h1 h2 => absurd h1 (by omega), ht, rfl, rfl⟩

/-- The scan writes the parser's working registers and `W`, and nothing else. -/
theorem scanRegisters_frame (rx : List Byte) (count i : Nat) (s : State) :
    scanRegisters rx count i s =
      { s with d0 := (scanRegisters rx count i s).d0, d1 := (scanRegisters rx count i s).d1,
               dc := (scanRegisters rx count i s).dc, crc := (scanRegisters rx count i s).crc,
               v := (scanRegisters rx count i s).v, idx := (scanRegisters rx count i s).idx,
               w := (scanRegisters rx count i s).w,
               written := { s.written with v := (scanRegisters rx count i s).written.v,
                                           w := (scanRegisters rx count i s).written.w } } := by
  fun_induction scanRegisters rx count i s with
  | case1 => rfl
  | case2 count i s s' w h ih =>
    rw [ih]
    simp only [s']
    rw [afterStrides_frame]
  | case3 count i s s' t h =>
    simp only [s']
    rw [afterStrides_frame]

/-- MEAS.PARSE writes the working registers, `W`, its own registers, `ERR` on a fault and the reply, and nothing else. -/
theorem parseMeasurement_frame (rx : List Byte) (s : State) :
    parseMeasurement rx s =
      { s with d0 := (parseMeasurement rx s).d0, d1 := (parseMeasurement rx s).d1, dc := (parseMeasurement rx s).dc,
               crc := (parseMeasurement rx s).crc, v := (parseMeasurement rx s).v, idx := (parseMeasurement rx s).idx,
               w := (parseMeasurement rx s).w, meas := (parseMeasurement rx s).meas, err := (parseMeasurement rx s).err,
               written := { s.written with v := (parseMeasurement rx s).written.v,
                                           w := (parseMeasurement rx s).written.w,
                                           meas := (parseMeasurement rx s).written.meas },
               reply := (parseMeasurement rx s).reply } := by
  unfold parseMeasurement
  split
  · rfl
  · simp only [measureRegisters]
    rw [scanRegisters_frame rx 1 9, scanRegisters_frame rx 5 4, scanRegisters_frame rx 4 0]

end Sys2Proof.Machine
end

