-- ==== Sys2Proof/Laws/PerInstr.lean ====
section
/-! SUPPORT. Statements made per instruction about the instruction as syntax: the request that selects an instruction carries
the code of its row of spec/opcode_table.json (spec/30_encoding.md R50, R58). -/

namespace Sys2Proof.Laws.Selects

/-- The code of a request as the opcode table numbers it: the width of its row and the bits. -/
def tableCode : Request → Nat × Nat
  | .op code _ => (3, code.toNat)
  | .cmd hi lo _ => (16, 256 * hi.toNat + lo.toNat)

/-- The width and the `match` of an instruction's row in spec/opcode_table.json. -/
def row : Instr → Nat × Nat
  | .reserved0 => (3, 0x0)
  | .crcCompute .. => (3, 0x1)
  | .crcValidate .. => (3, 0x2)
  | .frameBuild .. => (3, 0x3)
  | .frameParse .. => (3, 0x4)
  | .fieldParse .. => (3, 0x5)
  | .floatDecode .. => (3, 0x6)
  | .measParse .. => (3, 0x7)
  | .cmdStartMeasurement => (16, 0xD010)
  | .cmdStopMeasurement => (16, 0x0104)
  | .cmdReadDataReady => (16, 0x0202)
  | .cmdReadMeasurement => (16, 0x0300)
  | .cmdSleep => (16, 0x1001)
  | .cmdWakeup => (16, 0x1103)
  | .cmdStartFanCleaning => (16, 0x5607)
  | .cmdReadAutoclean => (16, 0x8004)
  | .cmdWriteAutoclean .. => (16, 0x8004)
  | .cmdProductType => (16, 0xD002)
  | .cmdSerialNumber => (16, 0xD033)
  | .cmdFirmwareVersion => (16, 0xD100)
  | .cmdReadStatus => (16, 0xD206)
  | .cmdClearStatus => (16, 0xD210)
  | .cmdReset => (16, 0xD304)

/-- The request of an instruction, under the command table as printed, carries its row's code. -/
def Statement (i : Instr) : Prop := tableCode (encode CommandTable.default i) = row i

theorem reserved0 : Statement .reserved0 := rfl
theorem crcCompute (b0 b1 : Byte) : Statement (.crcCompute b0 b1) := rfl
theorem crcValidate (b0 b1 c : Byte) : Statement (.crcValidate b0 b1 c) := rfl
theorem frameBuild (hi lo : Byte) (pay : Option (List Byte)) : Statement (.frameBuild hi lo pay) := rfl
theorem frameParse (rx : List Byte) : Statement (.frameParse rx) := rfl
theorem fieldParse (rx : List Byte) : Statement (.fieldParse rx) := rfl
theorem floatDecode (w : Word) : Statement (.floatDecode w) := rfl
theorem measParse (rx : List Byte) : Statement (.measParse rx) := rfl
theorem cmdStartMeasurement : Statement .cmdStartMeasurement := rfl
theorem cmdStopMeasurement : Statement .cmdStopMeasurement := rfl
theorem cmdReadDataReady : Statement .cmdReadDataReady := rfl
theorem cmdReadMeasurement : Statement .cmdReadMeasurement := rfl
theorem cmdSleep : Statement .cmdSleep := rfl
theorem cmdWakeup : Statement .cmdWakeup := rfl
theorem cmdStartFanCleaning : Statement .cmdStartFanCleaning := rfl
theorem cmdReadAutoclean : Statement .cmdReadAutoclean := rfl
theorem cmdWriteAutoclean (seconds : Word) : Statement (.cmdWriteAutoclean seconds) := rfl
theorem cmdProductType : Statement .cmdProductType := rfl
theorem cmdSerialNumber : Statement .cmdSerialNumber := rfl
theorem cmdFirmwareVersion : Statement .cmdFirmwareVersion := rfl
theorem cmdReadStatus : Statement .cmdReadStatus := rfl
theorem cmdClearStatus : Statement .cmdClearStatus := rfl
theorem cmdReset : Statement .cmdReset := rfl

end Sys2Proof.Laws.Selects
end

