-- ==== Sys2Proof/Laws/Transport.lean ====
section
/-! SUPPORT. What the transport calls and the command wrappers can do (spec/45_environment.md R110, spec/30_encoding.md R63). -/

namespace Sys2Proof.Machine

theorem freeBytesFrom_length (k n : Nat) : (freeBytesFrom k n).length = n := by simp [freeBytesFrom]

theorem callReturns_cons (t : Transport) (c : CallOutcome) (cs : List CallOutcome) (h : t.calls = c :: cs) :
    callReturns t = decide (c = .returns) ∧ afterCall t = { t with calls := cs } := by
  simp [callReturns, afterCall, h]

/-- A call leaves the frames sent, the inbox and its counter alone. -/
theorem afterCall_frame (t : Transport) :
    (afterCall t).sent = t.sent ∧ (afterCall t).inbox = t.inbox ∧ (afterCall t).freeBytes = t.freeBytes := by
  unfold afterCall
  split <;> exact ⟨rfl, rfl, rfl⟩

/-- What was sent has no say in how a call ends. -/
theorem callReturns_sent (t : Transport) (sent : List (List Byte)) :
    callReturns { t with sent := sent } = callReturns t ∧
    afterCall { t with sent := sent } = { afterCall t with sent := sent } := by
  refine ⟨rfl, ?_⟩
  rcases t with ⟨_ | ⟨_, _⟩, _, _, _, _⟩ <;> rfl

/-- A call that hangs does not return. -/
theorem not_callReturns_of_hangs {t : Transport} (h : t.calls.head? = some .hangs) : callReturns t = false := by
  rcases t with ⟨_ | ⟨_, _⟩, _, _, _, _⟩ <;> simp_all [callReturns]

/-- The read after a write hangs exactly when the write returns and the next call hangs. -/
theorem readHangs_eq (t : Transport) :
    readHangs t = (callReturns t && decide ((afterCall t).calls.head? = some .hangs)) := by
  rcases t with ⟨_ | ⟨c, _ | ⟨d, cs⟩⟩, _, _, _, _⟩
  · simp [readHangs, callReturns, afterCall]
  · cases c <;> simp [readHangs, callReturns, afterCall]
  · cases c <;> cases d <;> simp [readHangs, callReturns, afterCall]

/-- A write ends in one of two ways: the frame is the one more that was sent, or the call failed. -/
theorem transportWrite_cases (tx : List Byte) (s : State) :
    (callReturns s.transport = true ∧
      transportWrite tx s =
        { s with transport := { afterCall s.transport with sent := s.transport.sent ++ [tx] } }) ∨
    (callReturns s.transport = false ∧
      transportWrite tx s = { s with transport := afterCall s.transport, reply := .transportFailure }) := by
  cases h : callReturns s.transport <;> simp [transportWrite, h]

/-- A read ends in one of two ways: its bytes are parsed, or the call failed. -/
theorem transportRead_cases (n : Nat) (parse : List Byte → State → State) (s : State) :
    (callReturns s.transport = true ∧
      transportRead n parse s = parse (readBytes s.transport n)
        { s with transport :=
            { afterCall s.transport with
              inbox := s.transport.inbox.drop n
              freeBytes := s.transport.freeBytes + (n - s.transport.inbox.length) } }) ∨
    (callReturns s.transport = false ∧
      transportRead n parse s = { s with transport := afterCall s.transport, reply := .transportFailure }) := by
  cases h : callReturns s.transport <;> simp [transportRead, h]

/-- A wrapper: its frame is refused, or one of its calls hangs, or it exchanges. -/
theorem runCommand_cases (row : CommandRow) (pay : List Byte) (parse : List Byte → State → State) (s : State) :
    (badPayloadLength s.cfg pay.length = true ∧
      runCommand row pay parse s = .next (takeFault (.payloadLength pay.length) s)) ∨
    (badPayloadLength s.cfg pay.length = false ∧
      (writeHangs s.transport || (row.response.getD 0 ≠ 0 && readHangs s.transport)) = true ∧
      runCommand row pay parse s = .fault .transportHung) ∨
    (badPayloadLength s.cfg pay.length = false ∧
      (writeHangs s.transport || (row.response.getD 0 ≠ 0 && readHangs s.transport)) = false ∧
      runCommand row pay parse s =
        .next (exchange (frameOf row.hi row.lo pay) (row.response.getD 0) parse (buildFrame row.hi row.lo pay s))) := by
  cases h : badPayloadLength s.cfg pay.length with
  | true => exact .inl ⟨rfl, by simp [runCommand, buildFrame_refuses h]⟩
  | false =>
    refine .inr ?_
    have e := buildFrame_accepts h row.hi row.lo
    have ht : (buildFrame row.hi row.lo pay s).transport = s.transport := by rw [buildFrame_frame]
    have hr : (buildFrame row.hi row.lo pay s).reply = .frame (frameOf row.hi row.lo pay) := by rw [e]
    cases hw : (writeHangs s.transport || (row.response.getD 0 ≠ 0 && readHangs s.transport)) with
    | true => exact .inl ⟨rfl, rfl, by simp only [runCommand, hr, ht, hw, if_true]⟩
    | false => exact .inr ⟨rfl, rfl, by simp only [runCommand, hr, ht, hw, Bool.false_eq_true, if_false]⟩

/-- An exchange ends in one of three ways: the frame was written and nothing is to be read; the frame was written and the read
follows; the write failed. -/
theorem exchange_cases (tx : List Byte) (n : Nat) (parse : List Byte → State → State) (s : State) :
    (callReturns s.transport = true ∧ n = 0 ∧ exchange tx n parse s = transportWrite tx s) ∨
    (callReturns s.transport = true ∧ n ≠ 0 ∧
      exchange tx n parse s = transportRead n parse (transportWrite tx s)) ∨
    (callReturns s.transport = false ∧ exchange tx n parse s = transportWrite tx s) := by
  by_cases hn : n = 0 <;> cases h : callReturns s.transport <;> simp [exchange, h, hn]

end Sys2Proof.Machine
end

