-- ==== Sys2Proof/Tests/Slice0.lean ====
section
/-! SUPPORT. Tests: expected values are those of spec/95_test_vectors.md and of the rules' own examples. One step each. -/

namespace Sys2Proof.Tests

open Sys2Proof.Machine

/- Each kernel evaluation below waits for the one before it: elaborated one after the other they need one thread. -/
set_option Elab.async false

/-- The next state of an outcome. -/
def nextOf : Host.Outcome State Fault Refusal → Option State
  | .next t => some t
  | _ => none

/-- The next state of one instruction from reset. -/
def ran (i : Instr) : Option State := nextOf (exec i State.reset)

/-- Reset with transport inputs: how the calls end, and the inbox. -/
def linked (calls : List CallOutcome) (inbox : List Byte) : State :=
  { State.reset with transport := { State.reset.transport with calls := calls, inbox := inbox } }

/-- Reset with both length bounds given. -/
def bounded (pay resp : Nat) : State :=
  { State.reset with cfg := { Config.default with maxPayloadLen := some pay, maxResponseLen := some resp } }

/-- The command table as printed. -/
abbrev printed : CommandTable := CommandTable.default

/-- The table with the vendor's code of the start command (93_implementation_defined.md G5) and a response of 3 bytes to the
auto-clean write (`AUTOCLEAN_WRITE_RESP_LEN`). -/
def vendorTable : CommandTable :=
  { printed with startMeasurement := { printed.startMeasurement with hi := 0x00 },
                 writeAutoclean := { printed.writeAutoclean with response := some 3 } }

/-- A state with that table in the configuration. -/
def withTable (t : CommandTable) (s : State) : State := { s with cfg := { s.cfg with commands := t } }

/-! ### Well-formedness -/

theorem test_wf_refuses_empty_given_payload : (Instr.frameBuild 0x02 0x02 (some [])).wellFormed = false := by decide +kernel
theorem test_wf_accepts_absent_payload : (Instr.frameBuild 0x02 0x02 none).wellFormed = true := by decide +kernel
theorem test_wf_accepts_payload : (Instr.frameBuild 0xD0 0x10 (some [0x03, 0x00])).wellFormed = true := by decide +kernel

/-- Two commands of one code are refused; the read and the write of the auto-clean interval may share theirs. -/
theorem test_wf_refuses_equal_codes :
    ({ printed with wakeup := printed.sleep } : CommandTable).wellFormed = false ∧ printed.wellFormed = true ∧
    vendorTable.wellFormed = true := by decide +kernel

/-! ### Decoding, from the codes of 30_encoding.md R50 and R58 -/

theorem test_decode_reserved : decode printed (.op 0b000 []) = .ok .reserved0 := by decide +kernel
theorem test_decode_crc_compute : decode printed (.op 0b001 [0xBE, 0xEF]) = .ok (.crcCompute 0xBE 0xEF) := by decide +kernel
theorem test_decode_crc_validate : decode printed (.op 0b010 [0xBE, 0xEF, 0x92]) = .ok (.crcValidate 0xBE 0xEF 0x92) := by decide +kernel
theorem test_decode_frame_build : decode printed (.op 0b011 [0xD0, 0x10, 0x03, 0x00]) =
    .ok (.frameBuild 0xD0 0x10 (some [0x03, 0x00])) := by decide +kernel
theorem test_decode_frame_parse : decode printed (.op 0b100 [0x00, 0x01, 0xB0]) = .ok (.frameParse [0x00, 0x01, 0xB0]) := by decide +kernel
theorem test_decode_field_parse : decode printed (.op 0b101 [0x3F, 0x80, 0xD0]) = .ok (.fieldParse [0x3F, 0x80, 0xD0]) := by decide +kernel
theorem test_decode_float : decode printed (.op 0b110 [0x3F, 0x80, 0x00, 0x00]) = .ok (.floatDecode 0x3F800000) := by decide +kernel
theorem test_decode_meas_parse : decode printed (.op 0b111 [0x01]) = .ok (.measParse [0x01]) := by decide +kernel
theorem test_decode_commands :
    [decode printed (.cmd 0xD0 0x10 []), decode printed (.cmd 0x01 0x04 []), decode printed (.cmd 0x02 0x02 []), decode printed (.cmd 0x03 0x00 []),
     decode printed (.cmd 0x10 0x01 []), decode printed (.cmd 0x11 0x03 []), decode printed (.cmd 0x56 0x07 []), decode printed (.cmd 0x80 0x04 []),
     decode printed (.cmd 0x80 0x04 [0x00, 0x05, 0x46, 0x00]), decode printed (.cmd 0xD0 0x02 []), decode printed (.cmd 0xD0 0x33 []),
     decode printed (.cmd 0xD1 0x00 []), decode printed (.cmd 0xD2 0x06 []), decode printed (.cmd 0xD2 0x10 []), decode printed (.cmd 0xD3 0x04 [])] =
    [.ok .cmdStartMeasurement, .ok .cmdStopMeasurement, .ok .cmdReadDataReady, .ok .cmdReadMeasurement,
     .ok .cmdSleep, .ok .cmdWakeup, .ok .cmdStartFanCleaning, .ok .cmdReadAutoclean,
     .ok (.cmdWriteAutoclean 0x00054600), .ok .cmdProductType, .ok .cmdSerialNumber,
     .ok .cmdFirmwareVersion, .ok .cmdReadStatus, .ok .cmdClearStatus, .ok .cmdReset] := by decide +kernel
theorem test_decode_refuses_by_name :
    decode printed (.op 0b001 [0xBE]) = .error (.wrongOperands 1 1) ∧
    decode printed (.cmd 0x00 0x10 []) = .error (.unknownCommand 0x00 0x10) ∧
    decode printed (.cmd 0x10 0x01 [0x00]) = .error (.wrongCommandOperands 0x10 0x01 1) := by decide +kernel
/-- The plain commands have different codes, so that no row hides another. -/
theorem test_command_codes_differ : ((plainCommands printed).map fun p => (p.1.hi, p.1.lo)).Nodup := by decide +kernel
theorem test_table_words :
    [decodeTableWord 8 0, decodeTableWord 8 1, decodeTableWord 8 6, decodeTableWord 16 0xD010,
     decodeTableWord 16 0x8004, decodeTableWord 16 0xD304] =
    [some .reserved0, some (.crcCompute 0 0), some (.floatDecode 0), some .cmdStartMeasurement,
     some .cmdReadAutoclean, some .cmdReset] := by decide +kernel
theorem test_fetch_word_runs_first :
    step (State.reset.withFetchWord 8 6) = exec (.floatDecode 0) State.reset := by rfl

/-! ### RESERVED.0 and the faults (95_test_vectors.md 3.6) -/

theorem test_reserved_sets_err : (ran .reserved0).map (fun t => (t.err, t.reply)) = some (1, .fault .illegalOp) := by decide +kernel
theorem test_first_cause_kept :
    (nextOf (exec (.frameBuild 0x80 0x04 (some [0x00])) { State.reset with err := 3 })).map (fun t => (t.err, t.reply)) =
      some (3, .fault (.payloadLength 1)) := by decide +kernel

/-! ### The CRC engine (95_test_vectors.md 2.2, 2.3, 2.5) -/

theorem test_crc_check_value : (ran (.crcCompute 0xBE 0xEF)).map (fun t => (t.rcrc, t.crc)) = some (0x92, 0x92) := by decide +kernel
theorem test_crc_all_zero : (ran (.crcCompute 0x00 0x00)).map (·.rcrc) = some 0x81 := by decide +kernel
theorem test_crc_validate_ok : (ran (.crcValidate 0xBE 0xEF 0x92)).map (fun t => (t.v, t.rcrc)) = some (true, 0) := by decide +kernel
theorem test_crc_validate_mismatch : (ran (.crcValidate 0xBE 0xEF 0x93)).map (fun t => (t.v, t.err)) = some (false, 0) := by
  decide +kernel
/-- Rows 0, 3, 8 and F of the table T (95_test_vectors.md 2.3): `T[x]` is eight iterations from `x` (40_crc.md R76). -/
theorem test_crc_table_rows :
    ((List.range 16).map fun x => crcIterate 8 (BitVec.ofNat 8 x)) =
      [0x00, 0x31, 0x62, 0x53, 0xC4, 0xF5, 0xA6, 0x97, 0xB9, 0x88, 0xDB, 0xEA, 0x7D, 0x4C, 0x1F, 0x2E] ∧
    ((List.range 16).map fun x => crcIterate 8 (BitVec.ofNat 8 (0x30 + x))) =
      [0xC5, 0xF4, 0xA7, 0x96, 0x01, 0x30, 0x63, 0x52, 0x7C, 0x4D, 0x1E, 0x2F, 0xB8, 0x89, 0xDA, 0xEB] ∧
    ((List.range 16).map fun x => crcIterate 8 (BitVec.ofNat 8 (0x80 + x))) =
      [0x7A, 0x4B, 0x18, 0x29, 0xBE, 0x8F, 0xDC, 0xED, 0xC3, 0xF2, 0xA1, 0x90, 0x07, 0x36, 0x65, 0x54] ∧
    ((List.range 16).map fun x => crcIterate 8 (BitVec.ofNat 8 (0xF0 + x))) =
      [0x82, 0xB3, 0xE0, 0xD1, 0x46, 0x77, 0x24, 0x15, 0x3B, 0x0A, 0x59, 0x68, 0xFF, 0xCE, 0x9D, 0xAC] := by
  decide +kernel
theorem test_reference_crc : refChecksum 0xBE 0xEF = 0x92 ∧ refChecksum 0x3E 0xEF = 0xB1 := by decide +kernel

/-! ### Frames (95_test_vectors.md 3.1, 3.2, P1) -/

theorem test_build_start_frame :
    (ran (.frameBuild 0xD0 0x10 (some [0x03, 0x00]))).map (fun t => (t.reply, t.crc, t.idx)) =
      some (.frame [0xD0, 0x10, 0x03, 0x00, 0xAC], 0xAC, 2) := by decide +kernel
theorem test_build_odd_payload :
    (ran (.frameBuild 0x80 0x04 (some [0x00, 0x05, 0x46]))).map (fun t => (t.reply, t.err, t.idx)) =
      some (.fault (.payloadLength 3), 2, 0) := by decide +kernel
theorem test_parse_goes_on_after_mismatch :
    (ran (.frameParse [0xBE, 0xEF, 0x93, 0xBE, 0xEF, 0x92])).map (fun t => (t.reply, t.v, t.idx)) =
      some (.triplets [⟨0xBE, 0xEF, false⟩, ⟨0xBE, 0xEF, true⟩], true, 6) := by decide +kernel
theorem test_parse_partial_stride :
    (ran (.frameParse [0x00, 0x01, 0xB0, 0x00])).map (fun t => (t.reply, t.err, t.v)) =
      some (.fault (.frameLength 4), 3, false) := by decide +kernel
theorem test_field_word : (ran (.fieldParse [0x00, 0x05, 0x74, 0x46, 0x00, 0x52])).map (fun t => (t.reply, t.w)) =
    some (.word 0x00054600, 0x00054600) := by decide +kernel
theorem test_field_second_triplet_bad :
    (ran (.fieldParse [0x3F, 0x80, 0xD0, 0x00, 0x00, 0x80])).map (fun t => (t.reply, t.w, t.failt, t.v)) =
      some (.mismatch 2, 0, 2, false) := by decide +kernel

/-! ### Floats (95_test_vectors.md 3.4) -/

theorem test_float_examples :
    [0x00000000, 0x3F800000, 0xC0000000, 0x80000000, 0x3A03126E, 0x3A03126F, 0xC0200000, 0x46000001].map
      (fun w => (decodeFloat .halfEven w).q) = [0, 1000, -2000, 0, 0, 1, -2500, 8192001] := by decide +kernel
theorem test_float_ties :
    [0x3D800000, 0xBD800000, 0x3E400000, 0xBE400000, 0x3EA00000, 0x3F700000].map
      (fun w => (decodeFloat .halfEven w).q) = [62, -62, 188, -188, 312, 938] := by decide +kernel
theorem test_float_largest :
    (decodeFloat .halfEven 0x7F7FFFFF).q = 340282346638528859811704183484516925440000 := by decide +kernel
theorem test_float_specials :
    [0x7F800000, 0xFF800000, 0x7FC00000, 0xFFFFFFFF].map (fun w => (decodeFloat .halfEven w).cls) =
      [.pinf, .ninf, .nan, .nan] := by decide +kernel
theorem test_float_decode_registers :
    (ran (.floatDecode 0x411CF5C3)).map (fun t => (t.fc, t.fq, t.crc, t.idx)) = some (.fin, 9810, 0, 0) := by decide +kernel

/-! ### The measurement parser (95_test_vectors.md 3.3, 3.5, P3, P4) -/

/-- `FRAME_A` (95_test_vectors.md 3.3). -/
def frameA : List Byte :=
  [0x3F, 0x9D, 0xDF, 0xF3, 0xB6, 0xAD, 0x40, 0x20, 0x8E, 0x00, 0x00, 0x81,
   0x40, 0x70, 0xF0, 0x00, 0x00, 0x81, 0x40, 0x80, 0x72, 0x00, 0x00, 0x81] ++
  [0x3F, 0x00, 0xAA, 0x00, 0x00, 0x81, 0x40, 0xFC, 0xF7, 0x7A, 0xE1, 0xA4,
   0x41, 0x1C, 0xC2, 0xF5, 0xC3, 0xFA, 0x41, 0x20, 0x7A, 0x00, 0x00, 0x81] ++
  [0x41, 0x48, 0x78, 0x00, 0x00, 0x81, 0x3F, 0x11, 0xD8, 0xEB, 0x85, 0x62]

theorem test_meas_valid_frame :
    (ran (.measParse frameA)).map (fun t =>
      (t.meas.mv.toList.map (·.map (·.q)), t.meas.complete, t.w, t.idx, t.v, t.fq)) =
      some ([1234, 2500, 3750, 4000, 500, 7890, 9810, 10000, 12500, 570].map some, true, 0x3F11EB85, 60, true, 0) := by
  decide +kernel
theorem test_meas_one_bad_triplet :
    (ran (.measParse (frameA.set 39 0xF4))).map (fun t =>
      (t.meas.mv.toList.map (·.map (·.q)), [t.meas.sbvMd, t.meas.sbvPc, t.meas.sbvPs, t.meas.complete],
       t.meas.failfPc, t.meas.failtPc, t.err)) =
      some ([some 1234, some 2500, some 3750, some 4000, none, none, none, none, none, some 570],
        [true, false, true, false], 6, 2, 0) := by
  decide +kernel

/-! ### The command wrappers (95_test_vectors.md P1 to P5; 30_encoding.md R58) -/

/-- The frame a wrapper sends when its calls return, with the reply it ends with. -/
def sentBy (i : Instr) (inbox : List Byte) : Option (List (List Byte) × Reply) :=
  (nextOf (exec i (linked [.returns, .returns] inbox))).map fun t => (t.transport.sent, t.reply)

theorem test_cmd_start : sentBy .cmdStartMeasurement [] =
    some ([[0xD0, 0x10, 0x03, 0x00, 0xAC]], .frame [0xD0, 0x10, 0x03, 0x00, 0xAC]) := by decide +kernel
theorem test_cmd_without_response :
    [Instr.cmdStopMeasurement, .cmdSleep, .cmdWakeup, .cmdStartFanCleaning, .cmdClearStatus, .cmdReset].map
      (fun i => (sentBy i []).map (·.1)) =
    [some [[0x01, 0x04]], some [[0x10, 0x01]], some [[0x11, 0x03]], some [[0x56, 0x07]], some [[0xD2, 0x10]],
     some [[0xD3, 0x04]]] := by decide +kernel
theorem test_cmd_write_autoclean : sentBy (.cmdWriteAutoclean 0x00054600) [] =
    some ([[0x80, 0x04, 0x00, 0x05, 0x74, 0x46, 0x00, 0x52]],
      .frame [0x80, 0x04, 0x00, 0x05, 0x74, 0x46, 0x00, 0x52]) := by decide +kernel
theorem test_cmd_data_ready : sentBy .cmdReadDataReady [0x00, 0x01, 0xB0] =
    some ([[0x02, 0x02]], .triplets [⟨0x00, 0x01, true⟩]) := by decide +kernel
theorem test_cmd_read_autoclean : sentBy .cmdReadAutoclean [0x00, 0x05, 0x74, 0x46, 0x00, 0x52] =
    some ([[0x80, 0x04]], .word 0x00054600) := by decide +kernel
theorem test_cmd_read_status : sentBy .cmdReadStatus [0x00, 0x20, 0x07, 0x00, 0x00, 0x81] =
    some ([[0xD2, 0x06]], .word 0x00200000) := by decide +kernel
theorem test_cmd_product_type : sentBy .cmdProductType
    [0x30, 0x30, 0xF6, 0x30, 0x38, 0x4F, 0x30, 0x30, 0xF6, 0x30, 0x30, 0xF6] =
    some ([[0xD0, 0x02]], .triplets [⟨0x30, 0x30, true⟩, ⟨0x30, 0x38, true⟩, ⟨0x30, 0x30, true⟩, ⟨0x30, 0x30, true⟩]) := by
  decide +kernel
theorem test_cmd_firmware : sentBy .cmdFirmwareVersion [0x02, 0x02, 0x3B] =
    some ([[0xD1, 0x00]], .triplets [⟨0x02, 0x02, false⟩]) := by decide +kernel
theorem test_cmd_serial_number :
    (sentBy .cmdSerialNumber (List.replicate 48 0)).map (·.1) = some [[0xD0, 0x33]] := by decide +kernel
theorem test_cmd_read_measurement :
    (nextOf (exec .cmdReadMeasurement (linked [.returns, .returns] frameA))).map
      (fun t => (t.transport.sent, t.meas.complete, t.transport.inbox)) = some ([[0x03, 0x00]], true, []) := by
  decide +kernel
/-- 93_implementation_defined.md G5: with the vendor's code the frame is `00 10 03 00 AC`. -/
theorem test_cmd_other_table :
    decode vendorTable (.cmd 0x00 0x10 []) = .ok .cmdStartMeasurement ∧
    (nextOf (exec .cmdStartMeasurement (withTable vendorTable (linked [.returns] [])))).map (·.transport.sent) =
      some [[0x00, 0x10, 0x03, 0x00, 0xAC]] ∧
    (nextOf (exec (.cmdWriteAutoclean 0) (withTable vendorTable (linked [.returns, .returns] [0x00, 0x00, 0x81])))).map
      (·.reply) = some (.triplets [⟨0x00, 0x00, true⟩]) := by decide +kernel
theorem test_cmd_write_fails :
    (nextOf (exec .cmdSleep (linked [.fails] []))).map (fun t => (t.transport.sent, t.reply)) =
      some ([], .transportFailure) := by decide +kernel

/-! ### Host reads, the host's functions -/

theorem test_read_before_write : hostRead .rcrc State.reset = .refused (.readBeforeWrite .rcrc) := by rfl
theorem test_empty_sample_on_failure :
    (ran (.measParse (frameA.set 39 0xF4))).map (fun t => publishedSample t.meas) = some none := by decide +kernel
theorem test_handoff_evicts_oldest : (List.range 21).foldl publish [] = (List.range 20).map (· + 1) := by decide +kernel

/-- 44_measurement.md R102: `MV[5]` is the particle count pm1.0. -/
theorem test_field_names : fieldNames.length = 10 ∧ fieldNames[5]? = some (.particleCount, some "pm1.0") := by decide +kernel

/-! ### Witnesses: for each statement with hypotheses, operands and a state that meet them together -/

theorem witness_DecodeEncodeRoundTrip :
    printed.wellFormed = true ∧ vendorTable.wellFormed = true ∧ (Instr.frameBuild 0xFF 0x00 (some [0x00])).wellFormed = true := by decide +kernel
theorem witness_DecodedRequestsAreCanonical :
    decode printed (.op 3 [0x02, 0x02]) = .ok (.frameBuild 0x02 0x02 none) ∧
    decode printed (.op 0 [0x01]) = .ok .reserved0 := by decide +kernel
theorem witness_StepRunsTheHostsNextEvent :
    (startOfRun [.start (.op 1 [0xBE, 0xEF])]).cfg.commands = printed ∧
    (startOfRun [.start (.op 1 [0xBE, 0xEF])]).pending = [.start (.op 1 [0xBE, 0xEF])] ∧
    decode printed (.op 1 [0xBE, 0xEF]) = .ok (.crcCompute 0xBE 0xEF) ∧
    (startOfRun [.start (.op 1 [])]).pending = [.start (.op 1 [])] ∧
    decode printed (.op 1 []) = .error (.wrongOperands 1 0) ∧ State.reset.pending = [] := by decide +kernel
theorem witness_ResetEventLeavesTheResetState :
    ({ startOfRun [.reset, .reset] with err := 3 }).pending = .reset :: [.reset] ∧ ResultReg.failtPs ≠ .err ∧
    ∀ i, ResultReg.failtPs ≠ .mv i := by decide +kernel
/-- One run of each operation that writes a result register, at the boundary values of its clause. -/
theorem witness_HostReadsWhatWasDelivered :
    (∃ t, exec (.crcCompute 0xBE 0xEF) State.reset = .next t) ∧
    (∃ t, exec (.crcValidate 0xBE 0xEF 0x93) State.reset = .next t) ∧
    (([0x00, 0x01, 0xB0] : List Byte).length % 3 = 0 ∧ ([0x00, 0x01, 0xB0] : List Byte) ≠ [] ∧
      Within 3 (bounded 4 3).cfg.maxResponseLen ∧ ∃ t, exec (.frameParse [0x00, 0x01, 0xB0]) (bounded 4 3) = .next t) ∧
    (([0x00, 0x05, 0x74, 0x46, 0x00, 0x52] : List Byte).length = 6 ∧
      FieldValid [0x00, 0x05, 0x74, 0x46, 0x00, 0x52] 0 ∧
      ∃ t, exec (.fieldParse [0x00, 0x05, 0x74, 0x46, 0x00, 0x52]) State.reset = .next t) ∧
    (∃ t, exec (.floatDecode 0xFF800000) State.reset = .next t) ∧
    (frameA.length = 60 ∧ ∃ t, exec (.measParse frameA) State.reset = .next t) := by
  refine ⟨⟨_, rfl⟩, ⟨_, rfl⟩, ⟨rfl, by decide, ?_, ⟨_, rfl⟩⟩, ⟨rfl, by decide +kernel, ⟨_, rfl⟩⟩, ⟨_, rfl⟩, rfl, ⟨_, rfl⟩⟩
  simp [Within, bounded]
/-- The smallest and the largest error weight of the statement, on valid triplets. -/
theorem witness_ChecksumDetectsUpToThreeBitErrors :
    tripletValid 0xBE 0xEF 0x92 = true ∧ bitCount 0x00 + bitCount 0x00 + bitCount 0x80 = 1 ∧
    bitCount 0x80 + bitCount 0x01 + bitCount 0x80 = 3 := by decide +kernel
/-- No payload, the longest payload a bound admits, an odd payload, a payload one block above the bound. -/
theorem witness_FrameBuildDeliversTheFrame :
    (([] : List Byte).length % 2 = 0 ∧ Within ([] : List Byte).length State.reset.cfg.maxPayloadLen) ∧
    (([0x00, 0x05, 0x46, 0x00] : List Byte).length % 2 = 0 ∧
      Within ([0x00, 0x05, 0x46, 0x00] : List Byte).length (bounded 4 3).cfg.maxPayloadLen) ∧
    ([0x00] : List Byte).length % 2 = 1 ∧ ¬ Within 6 (bounded 4 3).cfg.maxPayloadLen := by
  refine ⟨⟨rfl, ?_⟩, ⟨rfl, ?_⟩, rfl, ?_⟩ <;> simp [Within, bounded, State.reset, Config.default]
theorem witness_ParserInvertsAssembler :
    (∃ t, exec (.frameBuild 0x80 0x04 (some [0x00, 0x05])) State.reset = .next t ∧
      t.reply = .frame [0x80, 0x04, 0x00, 0x05, 0x74]) ∧
    Within (([0x80, 0x04, 0x00, 0x05, 0x74] : List Byte).drop 2).length (bounded 4 3).cfg.maxResponseLen := by
  refine ⟨⟨_, rfl, by decide +kernel⟩, ?_⟩
  simp [Within, bounded]
/-- An empty frame, the longest frame a bound admits, a partial stride, a frame one stride above the bound. -/
theorem witness_FrameParseReportsEveryStride :
    (([] : List Byte).length % 3 = 0 ∧ Within ([] : List Byte).length State.reset.cfg.maxResponseLen) ∧
    (([0x00, 0x01, 0xB0] : List Byte).length % 3 = 0 ∧ Within 3 (bounded 4 3).cfg.maxResponseLen) ∧
    ([0x00, 0x01, 0xB0, 0x00] : List Byte).length % 3 ≠ 0 ∧ ¬ Within 6 (bounded 4 3).cfg.maxResponseLen := by
  refine ⟨⟨rfl, ?_⟩, ⟨rfl, ?_⟩, by decide +kernel, ?_⟩ <;> simp [Within, bounded, State.reset, Config.default]
theorem witness_StridesAreIndependent :
    ([0xBE, 0xEF, 0x93] : List Byte).length % 3 = 0 ∧
    (∃ t tr, exec (.frameParse ([0xBE, 0xEF, 0x93] ++ [0xBE, 0xEF, 0x92])) State.reset = .next t ∧
      t.reply = .triplets tr) ∧
    (∃ t tr, exec (.frameParse [0xBE, 0xEF, 0x93]) (bounded 4 3) = .next t ∧ t.reply = .triplets tr) ∧
    ∃ t tr, exec (.frameParse [0xBE, 0xEF, 0x92]) (linked [] []) = .next t ∧ t.reply = .triplets tr :=
  ⟨rfl, ⟨_, _, rfl, rfl⟩, ⟨_, _, rfl, rfl⟩, ⟨_, _, rfl, rfl⟩⟩
theorem witness_FieldParseDeliversWordOrMismatch :
    ([0x3F, 0x80, 0xD0] : List Byte).length ≠ 6 ∧ (List.replicate 7 (0 : Byte)).length ≠ 6 := by decide +kernel
theorem witness_ReservedCodeRaisesIllegalOp : (7 : BitVec 3) ≠ 0 ∧ (0x93 : Byte) ≠ refChecksum 0xBE 0xEF := by
  decide +kernel
/-- Odd and over-long payloads, and frames next to the lengths accepted. -/
theorem witness_WrongLengthsRaiseTheirFault :
    ([0x00] : List Byte).length % 2 = 1 ∧ ¬ Within 6 (bounded 4 3).cfg.maxPayloadLen ∧
    (List.replicate 2 (0 : Byte)).length % 3 ≠ 0 ∧ ¬ Within 6 (bounded 4 3).cfg.maxResponseLen ∧
    (List.replicate 5 (0 : Byte)).length ≠ 6 ∧ (List.replicate 59 (0 : Byte)).length ≠ 60 := by
  refine ⟨rfl, ?_, by decide +kernel, ?_, by decide +kernel, by decide +kernel⟩ <;> simp [Within, bounded]
theorem witness_FaultEntryIsPrecise :
    (isOperation .reserved0 = true ∧
      ∃ t, exec .reserved0 State.reset = .next t ∧ t.reply = .fault .illegalOp) ∧
    (isOperation (.frameBuild 0x80 0x04 (some [0x00])) = true ∧
      ∃ t, exec (.frameBuild 0x80 0x04 (some [0x00])) State.reset = .next t ∧ t.reply = .fault (.payloadLength 1)) ∧
    (isOperation (.fieldParse []) = true ∧
      ∃ t, exec (.fieldParse []) State.reset = .next t ∧ t.reply = .fault (.frameLength 0)) :=
  ⟨⟨rfl, _, rfl, rfl⟩, ⟨rfl, _, rfl, rfl⟩, ⟨rfl, _, rfl, rfl⟩⟩
/-- A faulting step from `ERR` = 0, and one from `ERR` = 3. -/
theorem witness_ErrKeepsTheFirstCause :
    ((∃ t, step (startOfRun [.start (.op 0 [])]) = .next t ∧ t.reply = .fault .illegalOp ∧ t.err = 1) ∧
      (startOfRun [.start (.op 0 [])]).pending.head? ≠ some .reset ∧ (startOfRun [.start (.op 0 [])]).err = 0 ∧
      (startOfRun [.start (.op 0 [])]).err.toNat ≤ 3) ∧
    (∃ t, step { startOfRun [.start (.op 0 [])] with err := 3 } = .next t ∧ t.err = 3) ∧
    (∃ t, step { startOfRun [.start (.op 1 [0xBE, 0xEF])] with err := 2 } = .next t ∧ t.reply = .checksum 0x92 ∧ t.err = 2) ∧
    ({ startOfRun [.reset] with err := 2 }).pending.head? = some .reset ∧
    ∃ t, exec .reserved0 State.reset = .next t :=
  ⟨⟨⟨_, rfl, rfl, rfl⟩, by decide +kernel, rfl, by decide +kernel⟩, ⟨_, rfl, rfl⟩, ⟨_, rfl, by decide +kernel, rfl⟩, rfl, ⟨_, rfl⟩⟩
theorem witness_MismatchIsAResult :
    ([0x00, 0x00, 0x00] : List Byte).length % 3 = 0 ∧ Within 3 (bounded 4 3).cfg.maxResponseLen ∧
    (List.replicate 6 (0 : Byte)).length = 6 ∧ (List.replicate 60 (0 : Byte)).length = 60 := by
  refine ⟨rfl, ?_, by decide +kernel, by decide +kernel⟩
  simp [Within, bounded]
theorem witness_OperationsAlwaysComplete :
    isOperation .reserved0 = true ∧ isOperation (.measParse []) = true ∧ isOperation (.floatDecode 0xFFFFFFFF) = true := by
  decide +kernel
/-- The least and the greatest exponent field of finite words, and a special word. -/
theorem witness_FloatDecodeRoundsToThousandths :
    exponentField 0x00000000 ≠ 255 ∧ exponentField 0x7F7FFFFF ≠ 255 ∧ exponentField 0x3D800000 ≠ 255 ∧
    State.reset.cfg.tieRule = .halfEven := by decide +kernel
theorem witness_FloatDecodeClassifiesSpecials :
    exponentField 0x7F800000 = 255 ∧ exponentField 0xFF800000 = 255 ∧ exponentField 0xFFFFFFFF = 255 := by decide +kernel
theorem witness_FloatDecodeIsTotalAndPure :
    State.reset.cfg.tieRule = (bounded 4 3).cfg.tieRule ∧ (∃ t, exec (.floatDecode 0x3F800000) State.reset = .next t) ∧
    ∃ t, exec (.floatDecode 0x3F800000) (bounded 4 3) = .next t := ⟨rfl, ⟨_, rfl⟩, ⟨_, rfl⟩⟩
theorem witness_FloatDecodeExactOnIntegers :
    (150 ≤ exponentField 0x4B000000 ∧ exponentField 0x4B000000 ≤ 254) ∧
    (150 ≤ exponentField 0xFF7FFFFF ∧ exponentField 0xFF7FFFFF ≤ 254) := by decide +kernel
theorem witness_FloatDecodeMonotone :
    exponentField 0xFF7FFFFF ≠ 255 ∧ exponentField 0x00000000 ≠ 255 ∧ wordValue 0xFF7FFFFF ≤ wordValue 0x00000000 := by
  refine ⟨by decide +kernel, by decide +kernel, ?_⟩
  have h1 : wordValue 0xFF7FFFFF = -(1 + 8388607 / 2 ^ 23) * (2 : ℚ) ^ (127 : ℤ) := by
    simp [wordValue]
  have h2 : wordValue 0x00000000 = (2 : ℚ) ^ (-127 : ℤ) := by simp [wordValue, BitVec.getLsbD]
  have p1 : (0 : ℚ) < (2 : ℚ) ^ (127 : ℤ) := by positivity
  have p2 : (0 : ℚ) < (2 : ℚ) ^ (-127 : ℤ) := by positivity
  rw [h1, h2]
  nlinarith
/-- Both boundary words of 43_float_decode.md R95: the last that gives 0, the first that gives 1. -/
theorem witness_FloatDecodeRange :
    (exponentField 0x3A03126E = 116 ∧ mantissaField 0x3A03126E ≤ 0x03126E) ∧
    (exponentField 0x3A03126F = 116 ∧ ¬ mantissaField 0x3A03126F ≤ 0x03126E) := by decide +kernel
/-- For the five statements about MEAS.PARSE on 60 bytes: a frame with every field valid, one with field 6 the first to fail
in its sub-block, and one with no valid field. -/
theorem witness_MeasParse :
    frameA.length = 60 ∧ (∃ t, exec (.measParse frameA) State.reset = .next t) ∧
    (∀ i, i < 10 → FieldValid frameA i) ∧
    (frameA.set 39 0xF4).length = 60 ∧ (∃ t, exec (.measParse (frameA.set 39 0xF4)) State.reset = .next t) ∧
    (∀ j, 4 ≤ j → j < 6 → FieldValid (frameA.set 39 0xF4) j) ∧ ¬ FieldValid (frameA.set 39 0xF4) 6 ∧
    (List.replicate 60 (0 : Byte)).length = 60 ∧ (∀ i, i < 10 → ¬ FieldValid (List.replicate 60 0) i) ∧
    (∃ t, exec (.measParse (List.replicate 60 0)) State.reset = .next t) := by
  refine ⟨by decide +kernel, ⟨_, rfl⟩, by decide +kernel, by decide +kernel, ⟨_, rfl⟩, ?_, by decide +kernel, by decide +kernel,
    by decide +kernel, ⟨_, rfl⟩⟩
  intro j h4 h6
  interval_cases j <;> decide +kernel
/-- Field 9 assembled; field 8 the last one assembled; no field assembled. -/
theorem witness_MeasParseLeavesTheLastWord :
    Assembled frameA 9 ∧
    ((frameA.set 59 0x63).length = 60 ∧ (∃ t, exec (.measParse (frameA.set 59 0x63)) State.reset = .next t) ∧
      Assembled (frameA.set 59 0x63) 8 ∧ ∀ k, 8 < k → k < 10 → ¬ Assembled (frameA.set 59 0x63) k) ∧
    ∀ i, i < 10 → ¬ Assembled (List.replicate 60 0) i := by
  refine ⟨?_, ⟨by decide +kernel, ⟨_, rfl⟩, ?_, ?_⟩, ?_⟩
  · intro j h1 h2
    obtain rfl : j = 9 := by simp at h1; omega
    decide +kernel
  · intro j h1 h2
    simp at h1
    interval_cases j <;> decide +kernel
  · intro k h1 h2 h
    obtain rfl : k = 9 := by omega
    exact absurd (h 9 (by simp) (le_refl _)) (by decide +kernel)
  · intro i hi h
    have := h i (by split_ifs <;> omega) (le_refl i)
    interval_cases i <;> exact absurd this (by decide +kernel)
/-- The two frames differ in the particle-count sub-block only. -/
theorem witness_MeasParseSubBlocksIndependent :
    (∀ k, k < 24 → byteAt frameA k = byteAt (frameA.set 39 0xF4) k) ∧
    (∀ k, k < 60 → 54 ≤ k → byteAt frameA k = byteAt (frameA.set 39 0xF4) k) ∧
    (∀ k, k < 54 → 24 ≤ k → byteAt frameA k = byteAt (frameA.set 2 0xDE) k) := by decide +kernel
/-- A wrapper with a response and one without, the assembler's fault (a payload of odd length in the table), and each way the
calls can end. -/
theorem witness_WrappersRunTheirExpansion :
    (∃ e b tx, expansion State.reset.cfg.commands .cmdReadStatus = some e ∧ e.row.response.getD 0 ≠ 0 ∧
      exec (.frameBuild e.row.hi e.row.lo (some e.payload)) (linked [.returns, .returns] []) = .next b ∧
      b.reply = .frame tx) ∧
    (∃ e b tx, expansion State.reset.cfg.commands .cmdSleep = some e ∧ e.row.response.getD 0 = 0 ∧
      exec (.frameBuild e.row.hi e.row.lo (some e.payload)) (linked [.returns] []) = .next b ∧ b.reply = .frame tx) ∧
    (∃ e b f, expansion { printed with sleep := { printed.sleep with payload := [0x00] } } .cmdSleep = some e ∧
      exec (.frameBuild e.row.hi e.row.lo (some e.payload)) State.reset = .next b ∧ b.reply = .fault f) ∧
    (callReturns (linked [.returns, .returns] []).transport = true ∧
      callReturns (afterCall (linked [.returns, .returns] []).transport) = true) ∧
    (callReturns (linked [.fails] []).transport = false ∧ (linked [.fails] []).transport.calls.head? ≠ some .hangs) ∧
    (callReturns (linked [.returns, .fails] []).transport = true ∧
      callReturns (afterCall (linked [.returns, .fails] []).transport) = false ∧
      (afterCall (linked [.returns, .fails] []).transport).calls.head? ≠ some .hangs) ∧
    (linked [.hangs] []).transport.calls.head? = some .hangs ∧
    (callReturns (linked [.returns, .hangs] []).transport = true ∧
      (afterCall (linked [.returns, .hangs] []).transport).calls.head? = some .hangs) :=
  ⟨⟨_, _, _, rfl, by decide, rfl, rfl⟩, ⟨_, _, _, rfl, rfl, rfl, rfl⟩, ⟨_, _, _, rfl, rfl, rfl⟩, by decide, by decide, by decide,
    rfl, by decide⟩
theorem witness_commands_succeed :
    (linked [.returns, .returns] frameA).transport.calls = .returns :: .returns :: [] ∧
    (linked [.returns, .returns] frameA).cfg.commands = printed ∧
    Within 2 (bounded 2 3).cfg.maxPayloadLen ∧ Within 4 (bounded 4 3).cfg.maxPayloadLen ∧
    Within 48 (linked [.returns, .returns] frameA).cfg.maxResponseLen := by
  refine ⟨rfl, rfl, ?_, ?_, ?_⟩ <;> simp [Within, bounded, linked, State.reset, Config.default]
theorem witness_AutocleanIntervalRoundTrip :
    (49710 ≤ 49710) ∧ (linked [.returns] []).transport.calls = .returns :: [] ∧
    (linked [.returns] []).cfg.commands = printed ∧ Within 4 (linked [.returns] []).cfg.maxPayloadLen := by
  refine ⟨le_refl _, rfl, rfl, ?_⟩
  simp [Within, linked, State.reset, Config.default]
theorem witness_TransportFailurePropagates :
    (linked [.fails] []).transport.calls = .fails :: [] ∧
    (linked [.returns, .fails] []).transport.calls = .returns :: .fails :: [] ∧
    (linked [.hangs] []).transport.calls = .hangs :: [] ∧
    (linked [.returns, .hangs] []).transport.calls = .returns :: .hangs :: [] ∧
    (linked [.fails] []).cfg.commands = printed ∧ Within 4 (linked [.fails] []).cfg.maxPayloadLen := by
  refine ⟨rfl, rfl, rfl, rfl, rfl, ?_⟩
  simp [Within, linked, State.reset, Config.default]
theorem witness_RefusedFramesAreNotSent :
    ¬ Within 2 (bounded 0 0).cfg.maxPayloadLen ∧ ¬ Within 4 (bounded 2 0).cfg.maxPayloadLen ∧
    ({ bounded 0 0 with transport := (linked [.returns, .returns] []).transport }).transport.calls =
      .returns :: .returns :: [] ∧ (bounded 0 0).cfg.commands = printed ∧ ¬ Within 3 (bounded 0 0).cfg.maxResponseLen ∧
    ¬ Within 48 (bounded 0 47).cfg.maxResponseLen := by
  refine ⟨?_, ?_, rfl, rfl, ?_, ?_⟩ <;> simp [Within, bounded]
theorem witness_WrappersEndUnlessTheTransportHangs :
    isOperation .cmdReset = false ∧ .hangs ∉ State.reset.transport.calls.take 2 := by decide +kernel
theorem witness_ReadsDeliverTheBytesAskedFor :
    (2 < 3) ∧ 2 < (linked [] [0x00, 0x01, 0xB0]).transport.inbox.length := by decide +kernel
/-- For each parse a response with an invalid triplet and one with none. -/
theorem witness_InvalidTripletsYieldNoData :
    (([0xBE, 0xEF, 0x92, 0xBE, 0xEF, 0x93] : List Byte).length % 3 = 0 ∧ Within 6 State.reset.cfg.maxResponseLen ∧
      (∃ t, exec (.frameParse [0xBE, 0xEF, 0x92, 0xBE, 0xEF, 0x93]) State.reset = .next t) ∧
      ¬ ValidAt [0xBE, 0xEF, 0x92, 0xBE, 0xEF, 0x93] 1) ∧
    ((∃ t, exec (.frameParse [0xBE, 0xEF, 0x92, 0xBE, 0xEF, 0x92]) State.reset = .next t) ∧
      ∀ k, k < 2 → ValidAt [0xBE, 0xEF, 0x92, 0xBE, 0xEF, 0x92] k) ∧
    ((∃ t, exec (.fieldParse [0x00, 0x05, 0x74, 0x46, 0x00, 0x52]) State.reset = .next t) ∧
      FieldValid [0x00, 0x05, 0x74, 0x46, 0x00, 0x52] 0) ∧
    ((∃ t, exec (.fieldParse [0x00, 0x05, 0x74, 0x46, 0x00, 0x53]) State.reset = .next t) ∧
      ¬ FieldValid [0x00, 0x05, 0x74, 0x46, 0x00, 0x53] 0) ∧
    (frameA.length = 60 ∧ (∃ t, exec (.measParse frameA) State.reset = .next t) ∧ ∀ i, i < 10 → FieldValid frameA i) ∧
    ((frameA.set 39 0xF4).length = 60 ∧ (∃ t, exec (.measParse (frameA.set 39 0xF4)) State.reset = .next t) ∧
      ¬ FieldValid (frameA.set 39 0xF4) 6) := by
  refine ⟨⟨rfl, ?_, ⟨_, rfl⟩, by decide +kernel⟩, ⟨⟨_, rfl⟩, by decide +kernel⟩, ⟨⟨_, rfl⟩, by decide +kernel⟩,
    ⟨⟨_, rfl⟩, by decide +kernel⟩, ⟨rfl, ⟨_, rfl⟩, by decide +kernel⟩, ⟨rfl, ⟨_, rfl⟩, by decide +kernel⟩⟩
  simp [Within, State.reset, Config.default]
theorem witness_StepKeepsTheInvariant :
    Inv (startOfRun [.start (.op 7 [])]) ∧ ∃ t, step (startOfRun [.start (.op 7 [])]) = .next t := by
  refine ⟨⟨by decide, ⟨fun _ => rfl, by decide⟩, ?_, ?_, by decide, trivial⟩, _, rfl⟩
  · intro i r h; fin_cases i <;> simp [startOfRun, State.reset, Measurement.reset] at h
  · intro _ i; fin_cases i <;> rfl
theorem witness_OperationsArePure :
    isOperation (.frameParse []) = true ∧ State.reset.cfg = ({ State.reset with v := true, idx := 7 }).cfg ∧
    (∃ t, exec (.frameParse []) State.reset = .next t) ∧
    (∃ t, exec (.frameParse []) { State.reset with v := true, idx := 7 } = .next t) ∧
    (∃ t, exec (.frameParse [0, 0, 0]) State.reset = .next t ∧ t.reply = .triplets [⟨0, 0, false⟩]) ∧
    (∃ t, exec (.crcCompute 0 0) State.reset = .next t ∧ t.reply = .checksum 0x81) ∧
    (∃ t, exec (.crcValidate 0 0 0) State.reset = .next t ∧ t.reply = .validity false) ∧
    (∃ t, exec (.fieldParse [0x00, 0x05, 0x74, 0x46, 0x00, 0x52]) State.reset = .next t ∧ t.reply = .word 0x00054600) ∧
    (∃ t, exec (.fieldParse [0, 0, 0, 0, 0, 0]) State.reset = .next t ∧ t.reply = .mismatch 3) ∧
    (∃ t, exec (.floatDecode 0xC0000000) State.reset = .next t ∧ t.reply = .float { cls := .fin, q := -2000 }) ∧
    ∃ t, exec (.measParse (List.replicate 60 0)) State.reset = .next t ∧ t.reply = .measurement t.meas :=
  ⟨rfl, rfl, ⟨_, rfl⟩, ⟨_, rfl⟩, ⟨_, rfl, by decide +kernel⟩, ⟨_, rfl, by decide +kernel⟩, ⟨_, rfl, by decide +kernel⟩, ⟨_, rfl, by decide +kernel⟩,
    ⟨_, rfl, by decide +kernel⟩, ⟨_, rfl, by decide +kernel⟩, ⟨_, rfl, by decide +kernel⟩⟩
theorem witness_OperationsStayInsideTheBlock :
    ∃ t, exec .cmdReset (linked [.returns] []) = .next t ∧ t.transport.sent = [] ++ [[0xD3, 0x04]] := ⟨_, rfl, by decide +kernel⟩

end Sys2Proof.Tests
end

section
/-! The block's operations are pure (spec/00_scope.md R4): what an operation delivers is a function of its operands and the
model arguments. The one register that could carry something over is `V`, which a parse over no stride leaves as it was. -/

namespace Sys2Proof.Machine

/-! ### `V` after strides -/

/-- Whole or not, a sequence of at least three bytes has a stride. -/
theorem parseTriplets_ne_nil {rx : List Byte} (h : 3 ≤ rx.length) : parseTriplets rx ≠ [] := by
  match rx, h with
  | b0 :: b1 :: c :: rest, _ => simp

/-- `V` is the validity of the last stride, and is left alone when there is none (10_state.md R15). -/
theorem afterStrides_v (rx : List Byte) (s : State) :
    (afterStrides rx s).v = ((parseTriplets rx).getLast?.map Triplet.valid).getD s.v := by
  fun_induction afterStrides rx s with
  | case1 b0 b1 c rest s ih =>
    rw [ih, parseTriplets_cons, List.getLast?_cons]
    cases (parseTriplets rest).getLast? <;> rfl
  | case2 => simp [parseTriplets]

/-- After a stride, `V` tells nothing of the state before it. -/
theorem afterStrides_v_congr {rx : List Byte} (h : parseTriplets rx ≠ []) (s1 s2 : State) :
    (afterStrides rx s1).v = (afterStrides rx s2).v := by
  rw [afterStrides_v, afterStrides_v, List.getLast?_eq_some_getLast h]; rfl

/-- A scan of one field leaves the `V` of that field's strides. -/
theorem scanRegisters_one_v (rx : List Byte) (i : Nat) (s : State) :
    (scanRegisters rx 1 i s).v = (afterStrides (fieldBytes rx i) { s with idx := fieldLen * i }).v := by
  simp only [scanRegisters]; split <;> rfl

/-- MEAS.PARSE ends with the one field of the particle size sub-block, so its `V` is that field's (44_measurement.md R104). -/
theorem measureRegisters_v_congr {rx : List Byte} (h : rx.length = measLen) (s1 s2 : State) :
    (measureRegisters rx s1).v = (measureRegisters rx s2).v := by
  have hfield : (fieldBytes rx 9).length = 6 := fieldBytes_length rx 9 h.ge
  simp only [measureRegisters, scanRegisters_one_v]
  exact afterStrides_v_congr (parseTriplets_ne_nil (by omega)) _ _

/-! ### The same delivery -/

/-- Two states hold the same reply and the same values in the result registers that reply is delivered in. -/
def SameDelivery (t1 t2 : State) : Prop :=
  t1.reply = t2.reply ∧
  (∀ m, t1.reply = .measurement m → t1.meas = t2.meas ∧ t1.v = t2.v) ∧
  (∀ r, t1.reply = .float r → t1.fc = t2.fc ∧ t1.fq = t2.fq) ∧
  (∀ c, t1.reply = .checksum c → t1.rcrc = t2.rcrc) ∧
  (∀ v, t1.reply = .validity v → t1.v = t2.v) ∧
  (∀ tr, t1.reply = .triplets tr → tr ≠ [] → t1.v = t2.v) ∧
  (∀ w, t1.reply = .word w → t1.w = t2.w ∧ t1.failt = t2.failt ∧ t1.v = t2.v) ∧
  (∀ f, t1.reply = .mismatch f → t1.failt = t2.failt ∧ t1.v = t2.v)

/-- A fault is delivered in no result register. -/
theorem takeFault_sameDelivery (f : BlockFault) (s1 s2 : State) : SameDelivery (takeFault f s1) (takeFault f s2) := by
  simp [SameDelivery]

theorem buildFrame_sameDelivery (hi lo : Byte) (pay : List Byte) {s1 s2 : State} (hcfg : s1.cfg = s2.cfg) :
    SameDelivery (buildFrame hi lo pay s1) (buildFrame hi lo pay s2) := by
  cases h : badPayloadLength s1.cfg pay.length with
  | true =>
    rw [buildFrame_refuses h, buildFrame_refuses (hcfg ▸ h)]
    exact takeFault_sameDelivery _ s1 s2
  | false =>
    rw [buildFrame_accepts h, buildFrame_accepts (hcfg ▸ h)]
    simp [SameDelivery]

theorem parseFrame_sameDelivery (rx : List Byte) {s1 s2 : State} (hcfg : s1.cfg = s2.cfg) :
    SameDelivery (parseFrame rx s1) (parseFrame rx s2) := by
  cases h : badFrameLength s1.cfg rx.length with
  | true =>
    rw [parseFrame_refuses h, parseFrame_refuses (hcfg ▸ h)]
    exact takeFault_sameDelivery _ s1 s2
  | false =>
    rw [parseFrame_accepts h, parseFrame_accepts (hcfg ▸ h)]
    simpa [SameDelivery] using fun hne : parseTriplets rx ≠ [] => afterStrides_v_congr hne _ _

/-- A field's result is delivered over any two states that agree on `V`. -/
theorem deliverField_sameDelivery (r : FieldResult) {s1 s2 : State} (hv : s1.v = s2.v) :
    SameDelivery (deliverField r s1) (deliverField r s2) := by
  cases r <;> simp [SameDelivery, deliverField, hv]

theorem parseField_sameDelivery (rx : List Byte) (s1 s2 : State) :
    SameDelivery (parseField rx s1) (parseField rx s2) := by
  by_cases h : rx.length = 6
  · rw [parseField_accepts h, parseField_accepts h]
    exact deliverField_sameDelivery _ (afterStrides_v_congr (parseTriplets_ne_nil (by omega)) _ _)
  · rw [parseField_refuses h, parseField_refuses h]
    exact takeFault_sameDelivery _ s1 s2

theorem parseMeasurement_sameDelivery (rx : List Byte) {s1 s2 : State} (hcfg : s1.cfg = s2.cfg) :
    SameDelivery (parseMeasurement rx s1) (parseMeasurement rx s2) := by
  by_cases h : rx.length = measLen
  · simpa [SameDelivery, parseMeasurement, h, hcfg] using measureRegisters_v_congr h s1 s2
  · simpa [parseMeasurement, h] using takeFault_sameDelivery _ s1 s2

/-! ### The obligation -/

/-- Settles O51: operation by operation; only the parses need that `V` forgets what came before the last stride. -/
theorem operationsArePure : Obligations.OperationsArePure := by
  intro i s1 s2 t1 t2 hop hcfg h1 h2
  change SameDelivery t1 t2
  cases i with
  | reserved0 => cases h1; cases h2; exact takeFault_sameDelivery _ s1 s2
  | crcCompute b0 b1 => cases h1; cases h2; simp [SameDelivery]
  | crcValidate b0 b1 c => cases h1; cases h2; simp [SameDelivery]
  | frameBuild hi lo pay => cases h1; cases h2; exact buildFrame_sameDelivery hi lo _ hcfg
  | frameParse rx => cases h1; cases h2; exact parseFrame_sameDelivery rx hcfg
  | fieldParse rx => cases h1; cases h2; exact parseField_sameDelivery rx s1 s2
  | floatDecode w => cases h1; cases h2; simp [SameDelivery, hcfg]
  | measParse rx => cases h1; cases h2; exact parseMeasurement_sameDelivery rx hcfg
  | _ => cases hop

end Sys2Proof.Machine
end

section
/-! `ERR` keeps the first cause (spec/10_state.md R16). One rule serves both of its halves: over any `ERR` an operation does the
same, and what it leaves in `ERR` follows from what it reports and the `ERR` it found. At the `ERR` it did find, the rule says
which value stands there afterwards. -/

namespace Sys2Proof.Machine

/-! ### Another value in `ERR` -/

/-- The state with another value in `ERR`. -/
def withErr (e : BitVec 3) (s : State) : State := { s with err := e }

@[simp] theorem withErr_transport (e : BitVec 3) (s : State) : (withErr e s).transport = s.transport := rfl

/-- `ERR` after an operation, from what the operation reported and the `ERR` before it (10_state.md R16). -/
def errAfterReply (r : Reply) (err : BitVec 3) : BitVec 3 :=
  match r with
  | .fault f => errAfter err f
  | _ => err

@[simp] theorem errAfterReply_fault (f : BlockFault) (err : BitVec 3) : errAfterReply (.fault f) err = errAfter err f := rfl

theorem errAfterReply_of_not_fault {r : Reply} (h : ∀ f, r ≠ .fault f) (err : BitVec 3) : errAfterReply r err = err := by
  cases r with
  | fault f => exact absurd rfl (h f)
  | _ => rfl

/-- Faults have the codes 1 to 3, so a legal `ERR` stays legal. -/
theorem errAfterReply_le_three (r : Reply) {err : BitVec 3} (h : err.toNat ≤ 3) : (errAfterReply r err).toNat ≤ 3 := by
  cases r with
  | fault f =>
    rw [errAfterReply_fault, errAfter]
    split
    · cases f <;> simp [faultCode]
    · exact h
  | _ => exact h

/-- An operation follows the rule of `ERR`: with another value there it does the same to everything else, and leaves there
what its report makes of that value. -/
def FollowsErrRule (op : State → State) : Prop :=
  ∀ (e : BitVec 3) (s : State), op (withErr e s) = withErr (errAfterReply (op s).reply e) (op s)

/-! ### The loops carry `ERR` along -/

theorem afterStrides_withErr (rx : List Byte) (e : BitVec 3) (s : State) :
    afterStrides rx (withErr e s) = withErr e (afterStrides rx s) := by
  fun_induction afterStrides rx s with
  | case1 b0 b1 c rest s ih => exact ih
  | case2 => simp [afterStrides]

theorem afterBlocks_withErr (pay : List Byte) (e : BitVec 3) (s : State) :
    afterBlocks pay (withErr e s) = withErr e (afterBlocks pay s) := by
  fun_induction afterBlocks pay s with
  | case1 b0 b1 rest s ih => exact ih
  | case2 => simp [afterBlocks]

/-- The registers after a field is assembled: `W` takes its word (44_measurement.md R107). -/
def takeWord (w : Word) (s : State) : State := { s with w := w, written := { s.written with w := true } }

theorem scanRegisters_withErr (rx : List Byte) (count i : Nat) (e : BitVec 3) (s : State) :
    scanRegisters rx count i (withErr e s) = withErr e (scanRegisters rx count i s) := by
  induction count generalizing i s with
  | zero => rfl
  | succ count ih =>
    have hstrides := afterStrides_withErr (fieldBytes rx i) e { s with idx := fieldLen * i }
    simp only [scanRegisters]
    cases fieldResult (fieldBytes rx i) with
    | word w =>
      exact (congrArg (fun s' => scanRegisters rx count (i + 1) (takeWord w s')) hstrides).trans (ih (i + 1) (takeWord w _))
    | mismatch t => exact hstrides

theorem measureRegisters_withErr (rx : List Byte) (e : BitVec 3) (s : State) :
    measureRegisters rx (withErr e s) = withErr e (measureRegisters rx s) := by
  simp only [measureRegisters, scanRegisters_withErr]

/-! ### The operations follow the rule -/

theorem takeFault_followsErrRule (f : BlockFault) : FollowsErrRule (takeFault f) := fun _ _ => rfl

theorem buildFrame_followsErrRule (hi lo : Byte) (pay : List Byte) : FollowsErrRule (buildFrame hi lo pay) := by
  intro e s
  cases h : badPayloadLength s.cfg pay.length with
  | true => rw [buildFrame_refuses h, buildFrame_refuses (s := withErr e s) h]; exact takeFault_followsErrRule _ e s
  | false =>
    rw [buildFrame_accepts h, buildFrame_accepts (s := withErr e s) h]
    exact congrArg (fun s' : State => { s' with reply := .frame (frameOf hi lo pay) })
      (afterBlocks_withErr pay e { s with idx := 0 })

theorem parseFrame_followsErrRule (rx : List Byte) : FollowsErrRule (parseFrame rx) := by
  intro e s
  cases h : badFrameLength s.cfg rx.length with
  | true => rw [parseFrame_refuses h, parseFrame_refuses (s := withErr e s) h]; exact takeFault_followsErrRule _ e s
  | false =>
    rw [parseFrame_accepts h, parseFrame_accepts (s := withErr e s) h]
    exact congrArg (fun s' : State => { s' with reply := .triplets (parseTriplets rx) })
      (afterStrides_withErr rx e { s with idx := 0 })

theorem deliverField_followsErrRule (r : FieldResult) : FollowsErrRule (deliverField r) := by
  intro e s
  cases r <;> rfl

theorem parseField_followsErrRule (rx : List Byte) : FollowsErrRule (parseField rx) := by
  intro e s
  by_cases h : rx.length = 6
  · rw [parseField_accepts h, parseField_accepts h, ← deliverField_followsErrRule]
    exact congrArg (deliverField (fieldResult rx)) (afterStrides_withErr rx e { s with idx := 0 })
  · rw [parseField_refuses h, parseField_refuses h]; exact takeFault_followsErrRule _ e s

theorem parseMeasurement_accepts {rx : List Byte} (h : rx.length = measLen) (s : State) :
    parseMeasurement rx s =
      { measureRegisters rx s with
        meas := measurementOf s.cfg.tieRule rx
        written := { (measureRegisters rx s).written with meas := true }
        reply := .measurement (measurementOf s.cfg.tieRule rx) } :=
  if_neg (not_not.mpr h)

theorem parseMeasurement_refuses {rx : List Byte} (h : rx.length ≠ measLen) (s : State) :
    parseMeasurement rx s = takeFault (.frameLength rx.length) s :=
  if_pos h

theorem parseMeasurement_followsErrRule (rx : List Byte) : FollowsErrRule (parseMeasurement rx) := by
  intro e s
  by_cases h : rx.length = measLen
  · rw [parseMeasurement_accepts h, parseMeasurement_accepts h, measureRegisters_withErr]; rfl
  · rw [parseMeasurement_refuses h, parseMeasurement_refuses h]; exact takeFault_followsErrRule _ e s

/-- An operation of the block, over another `ERR`. -/
theorem exec_operation_withErr {i : Instr} {s t : State} (hop : isOperation i = true) (h : exec i s = .next t) (e : BitVec 3) :
    exec i (withErr e s) = .next (withErr (errAfterReply t.reply e) t) := by
  cases i with
  | reserved0 => cases h; exact congrArg _ (takeFault_followsErrRule .illegalOp e s)
  | crcCompute b0 b1 => cases h; rfl
  | crcValidate b0 b1 c => cases h; rfl
  | frameBuild hi lo pay => cases h; exact congrArg _ (buildFrame_followsErrRule hi lo _ e s)
  | frameParse rx => cases h; exact congrArg _ (parseFrame_followsErrRule rx e s)
  | fieldParse rx => cases h; exact congrArg _ (parseField_followsErrRule rx e s)
  | floatDecode w => cases h; rfl
  | measParse rx => cases h; exact congrArg _ (parseMeasurement_followsErrRule rx e s)
  | _ => cases hop

/-- A state function that an operation of the block performs follows the rule. -/
theorem followsErrRule_of_exec {i : Instr} {op : State → State} (hop : isOperation i = true)
    (h : ∀ s, exec i s = .next (op s)) : FollowsErrRule op := fun e s =>
  Host.Outcome.next.inj ((h (withErr e s)).symm.trans (exec_operation_withErr hop (h s) e))

/-! ### What the command wrappers do -/

/-- What is not an operation of the block has an expansion, under every command table (30_encoding.md R63). -/
theorem expansion_isSome (table : CommandTable) (i : Instr) : (expansion table i).isSome = !isOperation i := by
  cases i <;> rfl

/-- A wrapper's response is parsed by an operation of the block (30_encoding.md R63). -/
theorem expansion_parse_isOperation {table : CommandTable} {i : Instr} {ex : Expansion} (h : expansion table i = some ex)
    (rx : List Byte) : isOperation (ex.parse rx) = true := by
  cases i <;> cases h <;> rfl

/-- A wrapper runs its expansion, with a state function for the operation that parses its response (30_encoding.md R63). -/
theorem exec_of_expansion {table : CommandTable} {i : Instr} {ex : Expansion} (h : expansion table i = some ex) :
    ∃ parse : List Byte → State → State, (∀ rx s, exec (ex.parse rx) s = .next (parse rx s)) ∧
      ∀ s, s.cfg.commands = table → exec i s = runCommand ex.row ex.payload parse s := by
  cases i <;> cases h <;> exact ⟨_, fun _ _ => rfl, by rintro s rfl; rfl⟩

theorem transportWrite_returns {s : State} (h : callReturns s.transport = true) (tx : List Byte) :
    transportWrite tx s = { s with transport := { afterCall s.transport with sent := s.transport.sent ++ [tx] } } :=
  if_pos h

theorem transportWrite_fails {s : State} (h : ¬ callReturns s.transport = true) (tx : List Byte) :
    transportWrite tx s = { s with transport := afterCall s.transport, reply := .transportFailure } :=
  if_neg h

/-- The state a read that returns hands to its parse: `n` bytes are taken off the transport. -/
def afterRead (n : Nat) (s : State) : State :=
  { s with transport :=
      { afterCall s.transport with
        inbox := s.transport.inbox.drop n
        freeBytes := s.transport.freeBytes + (n - s.transport.inbox.length) } }

theorem transportRead_returns {s : State} (h : callReturns s.transport = true) (n : Nat)
    (parse : List Byte → State → State) :
    transportRead n parse s = parse (readBytes s.transport n) (afterRead n s) :=
  if_pos h

theorem transportRead_fails {s : State} (h : ¬ callReturns s.transport = true) (n : Nat)
    (parse : List Byte → State → State) :
    transportRead n parse s = { s with transport := afterCall s.transport, reply := .transportFailure } :=
  if_neg h

theorem runCommand_refuses {s : State} {pay : List Byte} (h : badPayloadLength s.cfg pay.length = true) (row : CommandRow)
    (parse : List Byte → State → State) :
    runCommand row pay parse s = .next (takeFault (.payloadLength pay.length) s) := by
  simpa [h] using runCommand_cases row pay parse s

theorem runCommand_exchanges {s : State} {pay : List Byte} {row : CommandRow} (h : badPayloadLength s.cfg pay.length = false)
    (hgo : (writeHangs s.transport || (row.response.getD 0 ≠ 0 && readHangs s.transport)) = false)
    (parse : List Byte → State → State) :
    runCommand row pay parse s =
      .next (exchange (frameOf row.hi row.lo pay) (row.response.getD 0) parse (buildFrame row.hi row.lo pay s)) := by
  rcases runCommand_cases row pay parse s with ⟨hbad, -⟩ | ⟨-, hhangs, -⟩ | ⟨-, -, hrun⟩
  · rw [h] at hbad; cases hbad
  · rw [hgo] at hhangs; cases hhangs
  · exact hrun

/-! ### The command wrappers follow the rule -/

theorem transportWrite_withErr (tx : List Byte) (e : BitVec 3) (s : State) :
    transportWrite tx (withErr e s) = withErr e (transportWrite tx s) := by
  by_cases h : callReturns s.transport = true
  · rw [transportWrite_returns h, transportWrite_returns (s := withErr e s) h]; rfl
  · rw [transportWrite_fails h, transportWrite_fails (s := withErr e s) h]; rfl

section
variable {parse : List Byte → State → State} (hparse : ∀ rx, FollowsErrRule (parse rx))
include hparse

theorem transportRead_followsErrRule (n : Nat) : FollowsErrRule (transportRead n parse) := by
  intro e s
  by_cases h : callReturns s.transport = true
  · rw [transportRead_returns h, transportRead_returns (s := withErr e s) h]
    exact hparse _ e (afterRead n s)
  · rw [transportRead_fails h, transportRead_fails (s := withErr e s) h]; rfl

/-- An exchange follows the rule when the assembler before it has reported no fault. -/
theorem exchange_withErr {tx : List Byte} {s : State} (hs : s.reply = .frame tx) (n : Nat) (e : BitVec 3) :
    exchange tx n parse (withErr e s) =
      withErr (errAfterReply (exchange tx n parse s).reply e) (exchange tx n parse s) := by
  have hwrite : ∀ f, (transportWrite tx s).reply ≠ .fault f := by
    rcases transportWrite_cases tx s with ⟨-, hw⟩ | ⟨-, hw⟩ <;> simp [hw, hs]
  cases hread : (decide (n ≠ 0) && callReturns s.transport) with
  | true =>
    simpa only [exchange, withErr_transport, transportWrite_withErr, hread, if_true] using
      transportRead_followsErrRule hparse n e (transportWrite tx s)
  | false =>
    simp only [exchange, withErr_transport, transportWrite_withErr, hread, Bool.false_eq_true, if_false,
      errAfterReply_of_not_fault hwrite]

theorem runCommand_withErr {row : CommandRow} {pay : List Byte} {s t : State} (h : runCommand row pay parse s = .next t)
    (e : BitVec 3) :
    runCommand row pay parse (withErr e s) = .next (withErr (errAfterReply t.reply e) t) := by
  rcases runCommand_cases row pay parse s with ⟨hbad, hrun⟩ | ⟨-, -, hrun⟩ | ⟨hok, hgo, hrun⟩ <;>
    rw [hrun] at h <;> cases h
  · exact runCommand_refuses (s := withErr e s) hbad row parse
  · have hreply : (buildFrame row.hi row.lo pay s).reply = .frame (frameOf row.hi row.lo pay) := by
      rw [buildFrame_accepts hok]
    have hbuild : buildFrame row.hi row.lo pay (withErr e s) = withErr e (buildFrame row.hi row.lo pay s) := by
      rw [buildFrame_followsErrRule, hreply, errAfterReply_of_not_fault (by simp)]
    rw [runCommand_exchanges (s := withErr e s) hok hgo, hbuild, exchange_withErr hparse hreply]
end

/-- Any instruction, over another `ERR`. -/
theorem exec_withErr {i : Instr} {s t : State} (h : exec i s = .next t) (e : BitVec 3) :
    exec i (withErr e s) = .next (withErr (errAfterReply t.reply e) t) := by
  cases hop : isOperation i with
  | true => exact exec_operation_withErr hop h e
  | false =>
    have hsome := expansion_isSome s.cfg.commands i
    rw [hop] at hsome
    obtain ⟨ex, hex⟩ := Option.isSome_iff_exists.mp hsome
    obtain ⟨parse, hexec, hrun⟩ := exec_of_expansion hex
    have hparse : ∀ rx, FollowsErrRule (parse rx) := fun rx =>
      followsErrRule_of_exec (expansion_parse_isOperation hex rx) (hexec rx)
    rw [hrun s rfl] at h
    rw [hrun (withErr e s) rfl]
    exact runCommand_withErr hparse h e

/-- What an instruction leaves in `ERR`. -/
theorem exec_err {i : Instr} {s t : State} (h : exec i s = .next t) : t.err = errAfterReply t.reply s.err :=
  congrArg State.err (Host.Outcome.next.inj (h.symm.trans (exec_withErr h s.err)))

/-! ### A step -/

/-- A step that ends in a next state applies the reset event or performs the instruction of the host's request. -/
theorem step_cases {s t : State} (h : step s = .next t) :
    (∃ rest, s.pending = .reset :: rest ∧ t = resetEvent { s with pending := rest }) ∨
    (∃ r rest i, s.pending = .start r :: rest ∧ decode s.cfg.commands r = .ok i ∧
      exec i { s with pending := rest } = .next t) := by
  cases hp : s.pending with
  | nil => simp [step, fetch, hp] at h
  | cons event rest =>
    cases event with
    | reset => exact .inl ⟨rest, rfl, by simpa [step, fetch, hp] using h.symm⟩
    | start r =>
      cases hd : decode s.cfg.commands r with
      | error err => simp [step, fetch, hp, hd] at h
      | ok i => exact .inr ⟨r, rest, i, rfl, hd, by simpa [step, fetch, hp, hd] using h⟩

theorem step_of_reset {s : State} {rest : List HostEvent} (h : s.pending = .reset :: rest) :
    step s = .next (resetEvent { s with pending := rest }) := by
  simp [step, fetch, h]

/-- What a step leaves in `ERR`, unless it applies the reset event. -/
theorem step_err {s t : State} (h : step s = .next t) (hne : s.pending.head? ≠ some .reset) :
    t.err = errAfterReply t.reply s.err := by
  rcases step_cases h with ⟨rest, hp, -⟩ | ⟨r, rest, i, -, -, hexec⟩
  · simp [hp] at hne
  · simpa using exec_err hexec

/-! ### The obligation -/

/-- Settles O22: `step_err` is the first clause, and with the reset event the third; `exec_withErr` is the last. -/
theorem errKeepsTheFirstCause : Obligations.ErrKeepsTheFirstCause := by
  refine ⟨fun s t h hne => ⟨fun f hf => ?_, fun hf => ?_⟩, fun s h => ?_, fun s t h hle => ?_, fun s => rfl,
    fun i s t e h => ⟨_, exec_withErr h e⟩⟩
  · rw [step_err h hne, hf]
    cases f <;> rfl
  · rw [step_err h hne, errAfterReply_of_not_fault hf]
  · obtain ⟨rest, hp⟩ := List.head?_eq_some_iff.mp h
    exact ⟨_, step_of_reset hp, rfl⟩
  · rcases step_cases h with ⟨rest, -, rfl⟩ | ⟨r, rest, i, -, -, hexec⟩
    · exact Nat.zero_le 3
    · rw [exec_err hexec]
      exact errAfterReply_le_three t.reply hle

end Sys2Proof.Machine
end

section
/-! Wrong lengths are faults (spec/20_memory.md R36, spec/60_exceptions.md R142): the checks of the model refuse exactly the
lengths the specification names, and the four operations that make one then do no more than take the fault. -/

namespace Sys2Proof.Machine

theorem exceeds_iff (len : Nat) (bound : Option Nat) : exceeds len bound = true ↔ ¬ Within len bound := by
  cases bound <;> simp [exceeds, Within]

theorem badPayloadLength_iff (cfg : Config) (len : Nat) :
    badPayloadLength cfg len = true ↔ len % 2 = 1 ∨ ¬ Within len cfg.maxPayloadLen := by
  simp [badPayloadLength, exceeds_iff]

theorem badFrameLength_iff (cfg : Config) (len : Nat) :
    badFrameLength cfg len = true ↔ len % 3 ≠ 0 ∨ ¬ Within len cfg.maxResponseLen := by
  simp [badFrameLength, exceeds_iff]

/-- Settles O20: each operation refuses the length, and the refusal is `takeFault`, which is the state the statement writes. -/
theorem wrongLengthsRaiseTheirFault : Obligations.WrongLengthsRaiseTheirFault := by
  refine ⟨fun hi lo pay s h => ?_, fun rx s h => ?_, fun rx s h => ?_, fun rx s h => ?_⟩
  · exact congrArg Host.Outcome.next (buildFrame_refuses ((badPayloadLength_iff s.cfg pay.length).mpr h) hi lo)
  · exact congrArg Host.Outcome.next (parseFrame_refuses ((badFrameLength_iff s.cfg rx.length).mpr h))
  · exact congrArg Host.Outcome.next (parseField_refuses h s)
  · exact congrArg Host.Outcome.next (parseMeasurement_refuses h s)

end Sys2Proof.Machine
end

section
/-! The checksum engine agrees with its reference form (spec/40_crc.md R70 to R73): one iteration of the register is one iteration
on its number, so eight are eight, and so is each byte absorbed. CRC.COMPUTE (R74) then delivers the reference checksum. -/

namespace Sys2Proof.Machine

/-! ### The engine on numbers -/

/-- The bit that R72 tests before the shift, on the register's number. -/
theorem msb_iff_toNat (r : Byte) : r.msb = true ↔ r.toNat / 128 % 2 = 1 := by
  have := r.isLt
  rw [BitVec.msb_eq_decide, decide_eq_true_iff]
  omega

theorem toNat_crcIteration (r : Byte) : (crcIteration r).toNat = refIteration r.toNat := by
  have hshift : (r <<< 1).toNat = 2 * r.toNat % 256 := by
    rw [BitVec.toNat_shiftLeft, Nat.shiftLeft_eq, Nat.mul_comm]
  rw [crcIteration, refIteration]
  by_cases h : r.msb = true
  · rw [if_pos h, if_pos ((msb_iff_toNat r).mp h), BitVec.toNat_xor, hshift]; rfl
  · rw [if_neg h, if_neg (mt (msb_iff_toNat r).mpr h), hshift, Nat.xor_zero]

theorem toNat_crcIterate (n : Nat) (r : Byte) : (crcIterate n r).toNat = refIteration^[n] r.toNat := by
  induction n generalizing r with
  | zero => rfl
  | succ n ih => rw [crcIterate, ih, toNat_crcIteration, Function.iterate_succ_apply]

theorem toNat_crcAbsorb (r b : Byte) : (crcAbsorb r b).toNat = refIteration^[8] (r.toNat ^^^ b.toNat) := by
  rw [crcAbsorb, toNat_crcIterate, BitVec.toNat_xor]

theorem toNat_crc8 (b0 b1 : Byte) : (crc8 b0 b1).toNat = refCrc b0.toNat b1.toNat := by
  rw [crc8, toNat_crcAbsorb, toNat_crcAbsorb]; rfl

/-- The machine's checksum is the checksum of the reference form. -/
theorem crc8_eq_refChecksum (b0 b1 : Byte) : crc8 b0 b1 = refChecksum b0 b1 := by
  rw [refChecksum, ← toNat_crc8, BitVec.ofNat_toNat, BitVec.setWidth_eq]

/-! ### CRC.COMPUTE -/

/-- CRC.COMPUTE's next state, with the checksum in the reference form. -/
theorem exec_crcCompute (b0 b1 : Byte) (s : State) :
    exec (.crcCompute b0 b1) s =
      .next { s with d0 := b0, d1 := b1, crc := refChecksum b0 b1, rcrc := refChecksum b0 b1,
                     written := { s.written with rcrc := true }, reply := .checksum (refChecksum b0 b1) } := by
  rw [← crc8_eq_refChecksum]; rfl

/-- Settles O8: `exec_crcCompute` is the first clause; the operands of its request are the two bytes; the check values compute. -/
theorem crcComputeDeliversTheChecksum : Obligations.CrcComputeDeliversTheChecksum := by
  refine ⟨exec_crcCompute, fun b0 b1 => ⟨[b0, b1], fun _ => rfl⟩, ?_⟩
  decide

end Sys2Proof.Machine
end

section
/-! FRAME.BUILD's next state on an accepted payload (spec/41_frame_build.md R80): the frame by its blocks, and the working
registers by the last of them. -/

namespace Sys2Proof.Machine

/-- A length the assembler does not refuse. -/
theorem badPayloadLength_eq_false {cfg : Config} {len : Nat} (heven : len % 2 = 0) (hbound : Within len cfg.maxPayloadLen) :
    badPayloadLength cfg len = false := by
  rw [← Bool.not_eq_true, badPayloadLength_iff]
  rintro (hodd | hover)
  · omega
  · exact hover hbound

/-- Block `j` of a frame stands after the two command bytes and `j` blocks of three, with its checksum in the reference form. -/
theorem frameOf_getElem? (hi lo : Byte) {pay : List Byte} (h : pay.length % 2 = 0) {j : Nat} (hj : j < pay.length / 2) :
    (frameOf hi lo pay)[2 + 3 * j]? = some (byteAt pay (2 * j)) ∧
    (frameOf hi lo pay)[3 + 3 * j]? = some (byteAt pay (2 * j + 1)) ∧
    (frameOf hi lo pay)[4 + 3 * j]? = some (refChecksum (byteAt pay (2 * j)) (byteAt pay (2 * j + 1))) := by
  rw [← crc8_eq_refChecksum, show 2 + 3 * j = 3 * j + 2 by omega, show 3 + 3 * j = 3 * j + 1 + 2 by omega,
    show 4 + 3 * j = 3 * j + 2 + 2 by omega]
  exact frameBody_getElem? pay h j hj

theorem frameOf_length (hi lo : Byte) {pay : List Byte} (h : pay.length % 2 = 0) :
    (frameOf hi lo pay).length = 2 + 3 * (pay.length / 2) := by
  rw [frameOf, List.length_cons, List.length_cons, frameBody_length pay h]; omega

/-- The working registers after the loop are those of the last data block. -/
theorem afterBlocks_last {front : List Byte} (a b : Byte) (h : (front ++ [a, b]).length % 2 = 0) (s : State) :
    afterBlocks (front ++ [a, b]) s = buildBlock a b (afterBlocks front s) := by
  have hfront : front.length % 2 = 0 := by simpa using h
  rw [afterBlocks_append front [a, b] hfront]; rfl

/-- The frame rule of FRAME.BUILD on an accepted payload: what it leaves open is `D0`, `D1` and `CRC`. -/
theorem buildFrame_accepts_frame {s : State} {pay : List Byte} (heven : pay.length % 2 = 0)
    (hbad : badPayloadLength s.cfg pay.length = false) (hi lo : Byte) :
    buildFrame hi lo pay s =
      { s with d0 := (buildFrame hi lo pay s).d0, d1 := (buildFrame hi lo pay s).d1, crc := (buildFrame hi lo pay s).crc,
               idx := pay.length, reply := .frame (frameOf hi lo pay) } := by
  have hidx : (afterBlocks pay { s with idx := 0 }).idx = pay.length := by
    rw [afterBlocks_idx pay heven]; exact Nat.zero_add _
  rw [buildFrame_accepts hbad, afterBlocks_frame, hidx]

/-- Settles O14: the first clause is assembled from the frame rule, the frame's blocks and the last block's registers. The
refusal is O20's, and the operands of the request are the command bytes and the payload. -/
theorem frameBuildDeliversTheFrame : Obligations.FrameBuildDeliversTheFrame := by
  refine ⟨fun hi lo pay s heven hbound => ?_, fun _ _ _ => rfl, wrongLengthsRaiseTheirFault.1,
    fun hi lo pay => ⟨hi :: lo :: pay.getD [], fun _ => rfl⟩⟩
  have hbad := badPayloadLength_eq_false heven hbound
  refine ⟨buildFrame hi lo pay s, frameOf hi lo pay, rfl, buildFrame_accepts_frame heven hbad hi lo, frameOf_length hi lo heven,
    rfl, rfl, fun j hj => frameOf_getElem? hi lo heven hj, ?_, ?_⟩
  · rintro rfl
    rw [buildFrame_accepts hbad]
    exact ⟨rfl, rfl, rfl⟩
  · rintro front a b rfl
    rw [buildFrame_accepts hbad, afterBlocks_last a b heven, ← crc8_eq_refChecksum]
    exact ⟨rfl, rfl, rfl⟩

end Sys2Proof.Machine
end

section
/-! FRAME.PARSE's and FIELD.PARSE's next states (spec/42_frame_parse.md R85, R87): the entries by the strides, and the working
registers by the last of them. -/

namespace Sys2Proof.Machine

theorem tripletValid_eq_decide (b0 b1 c : Byte) : tripletValid b0 b1 c = decide (refChecksum b0 b1 = c) := by
  rw [tripletValid, crc8_eq_refChecksum]

/-- A stride's registers, with the checksum in the reference form. -/
theorem stride_eq (b0 b1 c : Byte) (s : State) :
    stride b0 b1 c s =
      { s with d0 := b0, d1 := b1, dc := c, crc := refChecksum b0 b1, v := decide (refChecksum b0 b1 = c), idx := s.idx + 3,
               written := { s.written with v := true } } := by
  rw [stride, crc8_eq_refChecksum, tripletValid_eq_decide]

/-! ### FRAME.PARSE -/

/-- A length the frame parser does not refuse. -/
theorem badFrameLength_eq_false {cfg : Config} {len : Nat} (hwhole : len % 3 = 0) (hbound : Within len cfg.maxResponseLen) :
    badFrameLength cfg len = false := by
  rw [← Bool.not_eq_true, badFrameLength_iff]
  rintro (hpartial | hover)
  · exact hpartial hwhole
  · exact hover hbound

/-- Entry `k` tells of stride `k`, with the checksum in the reference form. -/
theorem parseTriplets_getElem?_validAt {rx : List Byte} (h : rx.length % 3 = 0) {k : Nat} (hk : k < rx.length / 3) :
    (parseTriplets rx)[k]? = some
      { b0 := byteAt rx (3 * k), b1 := byteAt rx (3 * k + 1), valid := decide (ValidAt rx k) } := by
  rw [parseTriplets_getElem? rx h k hk, tripletValid_eq_decide]; rfl

/-- `V` counts as written once there is a stride (10_state.md R24). -/
theorem afterStrides_written_v {rx : List Byte} (h : rx.length % 3 = 0) (s : State) :
    (afterStrides rx s).written.v = (s.written.v || !rx.isEmpty) := by
  induction rx, h using strides_induction generalizing s with
  | nil => simp
  | cons b0 b1 c rest _ ih => simp [ih]

/-- The frame rule of FRAME.PARSE on an accepted frame: what it leaves open is `D0`, `D1`, `DC`, `CRC` and `V`. -/
theorem parseFrame_accepts_frame {s : State} {rx : List Byte} (hwhole : rx.length % 3 = 0)
    (hbad : badFrameLength s.cfg rx.length = false) :
    parseFrame rx s =
      { s with d0 := (parseFrame rx s).d0, d1 := (parseFrame rx s).d1, dc := (parseFrame rx s).dc,
               crc := (parseFrame rx s).crc, v := (parseFrame rx s).v, idx := rx.length,
               written := { s.written with v := s.written.v || !rx.isEmpty }, reply := .triplets (parseTriplets rx) } := by
  have hidx : (afterStrides rx { s with idx := 0 }).idx = rx.length := by
    rw [afterStrides_idx rx hwhole]; exact Nat.zero_add _
  rw [parseFrame_accepts hbad, afterStrides_frame, hidx, afterStrides_written_v hwhole]

/-- Settles O16: the first clause is assembled from the frame rule, the entries of the strides and the last stride's registers.
The refusal is O20's. -/
theorem frameParseReportsEveryStride : Obligations.FrameParseReportsEveryStride := by
  obtain ⟨-, hrefuses, -, -⟩ := wrongLengthsRaiseTheirFault
  refine ⟨fun rx s hwhole hbound => ?_, hrefuses, fun _ _ => rfl⟩
  have hbad := badFrameLength_eq_false hwhole hbound
  refine ⟨parseFrame rx s, parseTriplets rx, rfl, parseFrame_accepts_frame hwhole hbad, parseTriplets_length rx hwhole,
    fun k hk => parseTriplets_getElem?_validAt hwhole hk, ?_, ?_⟩
  · rintro rfl
    rw [parseFrame_accepts hbad]
    exact ⟨rfl, rfl, rfl, rfl, rfl⟩
  · rintro front a b c rfl
    have hfront : front.length % 3 = 0 := by simpa using hwhole
    rw [parseFrame_accepts hbad, afterStrides_last front hfront, stride_eq]
    exact ⟨rfl, rfl, rfl, rfl, rfl⟩

/-! ### FIELD.PARSE -/

/-- The big-endian word, in the form the statements write it: bit `i` of either side is in the byte that `i` falls in. -/
theorem wordOfBytes_eq_append (b0 b1 b2 b3 : Byte) : wordOfBytes b0 b1 b2 b3 = b0 ++ b1 ++ b2 ++ b3 := by
  refine BitVec.eq_of_getLsbD_eq fun i hi => ?_
  simp only [wordOfBytes, BitVec.getLsbD_or, BitVec.getLsbD_shiftLeft, BitVec.getLsbD_setWidth, BitVec.getLsbD_append]
  grind

/-- `FAILT` is 1 for an invalid first triplet plus 2 for an invalid second one. -/
theorem failtOf_eq_add (v0 v1 : Bool) : failtOf v0 v1 = (if v0 then 0 else 1) + (if v1 then 0 else 2) := by
  cases v0 <;> cases v1 <;> rfl

/-- The registers after the two strides of a field are those of the second one. -/
theorem afterStrides_six (b0 b1 c0 b2 b3 c1 : Byte) (s : State) :
    afterStrides [b0, b1, c0, b2, b3, c1] { s with idx := 0 } =
      { s with d0 := b2, d1 := b3, dc := c1, crc := refChecksum b2 b3, v := decide (refChecksum b2 b3 = c1), idx := 6,
               written := { s.written with v := true } } := by
  rw [afterStrides_cons, afterStrides_cons, afterStrides_nil, stride_eq, stride_eq]

/-- The per-field step on six bytes, in the reference forms. -/
theorem fieldResult_six_ref (b0 b1 c0 b2 b3 c1 : Byte) :
    fieldResult [b0, b1, c0, b2, b3, c1] =
      if decide (refChecksum b0 b1 = c0) && decide (refChecksum b2 b3 = c1) then .word (b0 ++ b1 ++ b2 ++ b3)
      else .mismatch (failtOf (decide (refChecksum b0 b1 = c0)) (decide (refChecksum b2 b3 = c1))) := by
  rw [fieldResult_six, tripletValid_eq_decide, tripletValid_eq_decide, wordOfBytes_eq_append]

/-- What is delivered for a field of two triplets: `FAILT` either way, `W` only when both are valid. -/
theorem deliverField_of_triplets (v0 v1 : Bool) (w : Word) (s : State) :
    deliverField (if v0 && v1 then .word w else .mismatch (failtOf v0 v1)) s =
      if v0 && v1 then
        { s with failt := failtOf v0 v1, w := w, written := { s.written with failt := true, w := true }, reply := .word w }
      else
        { s with failt := failtOf v0 v1, written := { s.written with failt := true }, reply := .mismatch (failtOf v0 v1) } := by
  cases v0 <;> cases v1 <;> rfl

/-- Settles O18: the registers are those after the two strides, and what is delivered over them turns on both triplets being
valid. The refusal is O20's. -/
theorem fieldParseDeliversWordOrMismatch : Obligations.FieldParseDeliversWordOrMismatch := by
  obtain ⟨-, -, hrefuses, -⟩ := wrongLengthsRaiseTheirFault
  refine ⟨fun b0 b1 c0 b2 b3 c1 s => congrArg Host.Outcome.next ?_, hrefuses, fun _ _ => rfl⟩
  rw [parseField_accepts rfl, afterStrides_six, fieldResult_six_ref, deliverField_of_triplets, failtOf_eq_add]

end Sys2Proof.Machine
end

section
/-! FLOAT.DECODE's next state (spec/43_float_decode.md R93, R96): every word gives one, made of the decoder's reading of the word
alone, and the class of a word with `E` = 255 reads off its fields. -/

namespace Sys2Proof.Machine

/-! ### The fields of a word on numbers -/

theorem biasedExponent_eq_exponentField (w : Word) : biasedExponent w = exponentField w := by
  rw [biasedExponent, BitVec.extractLsb'_toNat, Nat.shiftRight_eq_div_pow]; rfl

theorem mantissa_eq_mantissaField (w : Word) : mantissa w = mantissaField w := by
  rw [mantissa, BitVec.extractLsb'_toNat, Nat.shiftRight_zero]; rfl

theorem specialClass_eq (w : Word) :
    specialClass w = if mantissaField w ≠ 0 then .nan else if w.getLsbD 31 then .ninf else .pinf := by
  rw [specialClass, mantissa_eq_mantissaField]; rfl

/-- The decoder delivers a class and no number for `E` = 255 (43_float_decode.md R93). -/
theorem decodeFloat_special (tie : TieRule) {w : Word} (h : exponentField w = 255) :
    decodeFloat tie w = { cls := specialClass w, q := 0 } :=
  if_pos ((biasedExponent_eq_exponentField w).trans h)

/-! ### FLOAT.DECODE -/

/-- FLOAT.DECODE's next state: a reading is written to `FC` and `FQ` and delivered. -/
def deliverReading (r : Reading) (s : State) : State :=
  { s with fc := r.cls, fq := r.q, written := { s.written with float := true }, reply := .float r }

theorem exec_floatDecode (w : Word) (s : State) :
    exec (.floatDecode w) s = .next (deliverReading (decodeFloat s.cfg.tieRule w) s) := rfl

/-- Settles O25: the next state holds a reading of the word, and the state before it enters that reading by the tie rule only. -/
theorem floatDecodeIsTotalAndPure : Obligations.FloatDecodeIsTotalAndPure := by
  refine ⟨fun w s => ⟨_, exec_floatDecode w s, rfl⟩, fun w s s' t t' htie h h' => ?_⟩
  rw [exec_floatDecode] at h h'
  cases h
  cases h'
  rw [htie]
  exact ⟨rfl, rfl⟩

/-- Settles O27: the reading is `decodeFloat_special`'s, and `specialClass_eq` gives its class by the fields on numbers. -/
theorem floatDecodeClassifiesSpecials : Obligations.FloatDecodeClassifiesSpecials := by
  intro w s h
  rw [exec_floatDecode, decodeFloat_special s.cfg.tieRule h, specialClass_eq]
  rfl

end Sys2Proof.Machine
end

section
/-! The sub-blocks of MEAS.PARSE are independent (spec/44_measurement.md R104): a sub-block's report is scanned from its own
fields alone, and an entry of `MV` takes its own sub-block's report and its own field. -/

namespace Sys2Proof.Machine

/-- MEAS.PARSE on a frame of 60 bytes leaves the measurement of that frame. -/
theorem exec_measParse_meas {rx : List Byte} {s t : State} (hlen : rx.length = 60) (h : exec (.measParse rx) s = .next t) :
    t.meas = measurementOf s.cfg.tieRule rx := by
  change Host.Outcome.next (parseMeasurement rx s) = .next t at h
  rw [parseMeasurement_accepts hlen] at h
  cases h
  rfl

/-- An entry of `MV`, by its field's number (10_state.md R19). -/
theorem measurementOf_mv (tie : TieRule) (rx : List Byte) (i : Fin 10) :
    (measurementOf tie rx).mv[i] = measuredValue tie rx i.val := by
  simp [measurementOf]

/-! ### Frames with the same fields -/

/-- Two frames have the same `count` fields from field `first` on. -/
def SameFields (first count : Nat) (rx rx' : List Byte) : Prop :=
  ∀ i, first ≤ i → i < first + count → fieldBytes rx i = fieldBytes rx' i

/-- Frames that agree on the bytes of some fields have the same fields there (20_memory.md R35). -/
theorem sameFields_of_bytes {first count : Nat} {rx rx' : List Byte} (hlen : 6 * (first + count) ≤ rx.length)
    (hlen' : 6 * (first + count) ≤ rx'.length)
    (h : ∀ k, 6 * first ≤ k → k < 6 * (first + count) → byteAt rx k = byteAt rx' k) : SameFields first count rx rx' := by
  intro i hfirst hpast
  have hbyte : ∀ k, k < 6 → rx.getD (6 * i + k) 0 = rx'.getD (6 * i + k) 0 := fun k hk => h _ (by omega) (by omega)
  rw [fieldBytes_eq rx i (by omega), fieldBytes_eq rx' i (by omega), hbyte 1 (by omega), hbyte 2 (by omega),
    hbyte 3 (by omega), hbyte 4 (by omega), hbyte 5 (by omega), ← Nat.add_zero (6 * i), hbyte 0 (by omega)]

/-- A sub-block's report is the same on frames that have its fields in common. -/
theorem scanReport_congr {first count : Nat} {rx rx' : List Byte} (h : SameFields first count rx rx') :
    scanReport rx count first = scanReport rx' count first := by
  induction count generalizing first with
  | zero => rfl
  | succ count ih =>
    have hrest : SameFields (first + 1) count rx rx' := fun i hi hi' => h i (by omega) (by omega)
    rw [scanReport, scanReport, h first (le_refl _) (by omega), ih hrest]

/-- The values of a sub-block are the same on frames that have its fields in common. -/
theorem measuredValue_congr {first count i : Nat} {rx rx' : List Byte} (h : SameFields first count rx rx')
    (hfirst : first ≤ i) (hpast : i < first + count) (hreport : ∀ rx, reportOfField rx i = scanReport rx count first)
    (tie : TieRule) : measuredValue tie rx i = measuredValue tie rx' i := by
  rw [measuredValue, measuredValue, hreport, hreport, scanReport_congr h, h i hfirst hpast]

/-! ### The report of a field's sub-block (44_measurement.md R101) -/

theorem reportOfField_md {i : Nat} (h : i < 4) (rx : List Byte) : reportOfField rx i = scanReport rx 4 0 :=
  if_pos h

theorem reportOfField_pc {i : Nat} (h : 4 ≤ i) (h' : i < 9) (rx : List Byte) : reportOfField rx i = scanReport rx 5 4 :=
  (if_neg (by omega)).trans (if_pos h')

theorem reportOfField_ps {i : Nat} (h : 9 ≤ i) (rx : List Byte) : reportOfField rx i = scanReport rx 1 9 :=
  (if_neg (by omega)).trans (if_neg (by omega))

/-! ### The obligation -/

/-- A sub-block on two frames that agree on its bytes: one report, and the same entries of `MV`. -/
theorem subBlock_congr {first count : Nat} {rx rx' : List Byte} (hlen : 6 * (first + count) ≤ rx.length)
    (hlen' : 6 * (first + count) ≤ rx'.length)
    (hreport : ∀ i, first ≤ i → i < first + count → ∀ rx, reportOfField rx i = scanReport rx count first)
    (hbytes : ∀ k, 6 * first ≤ k → k < 6 * (first + count) → byteAt rx k = byteAt rx' k) (tie : TieRule) :
    scanReport rx count first = scanReport rx' count first ∧
    ∀ i : Fin 10, first ≤ i.val → i.val < first + count →
      (measurementOf tie rx).mv[i] = (measurementOf tie rx').mv[i] := by
  have hfields := sameFields_of_bytes hlen hlen' hbytes
  refine ⟨scanReport_congr hfields, fun i hfirst hpast => ?_⟩
  rw [measurementOf_mv, measurementOf_mv]
  exact measuredValue_congr hfields hfirst hpast (hreport i hfirst hpast) tie

/-- Settles O35: `subBlock_congr` at each of the three sub-blocks, its flag and failure report being parts of its report. -/
theorem measParseSubBlocksIndependent : Obligations.MeasParseSubBlocksIndependent := by
  intro rx rx' s t t' hlen hlen' h h'
  rw [exec_measParse_meas hlen h, exec_measParse_meas hlen' h']
  refine ⟨fun hbytes => ?md, fun hbytes => ?pc, fun hbytes => ?ps⟩
  case md =>
    obtain ⟨hreport, hvalues⟩ := subBlock_congr (first := 0) (count := 4) (by omega) (by omega)
      (fun _ _ hi => reportOfField_md hi) (fun k _ => hbytes k) s.cfg.tieRule
    exact ⟨congrArg SubBlockReport.valid hreport, congrArg SubBlockReport.failf hreport,
      congrArg SubBlockReport.failt hreport, fun i => hvalues i (Nat.zero_le _)⟩
  case pc =>
    obtain ⟨hreport, hvalues⟩ := subBlock_congr (first := 4) (count := 5) (by omega) (by omega)
      (fun _ => reportOfField_pc) hbytes s.cfg.tieRule
    exact ⟨congrArg SubBlockReport.valid hreport, congrArg SubBlockReport.failf hreport,
      congrArg SubBlockReport.failt hreport, hvalues⟩
  case ps =>
    obtain ⟨hreport, hvalues⟩ := subBlock_congr (first := 9) (count := 1) (by omega) (by omega)
      (fun _ hi _ => reportOfField_ps hi) hbytes s.cfg.tieRule
    exact ⟨congrArg SubBlockReport.valid hreport, congrArg SubBlockReport.failf hreport,
      congrArg SubBlockReport.failt hreport, hvalues 9 (le_refl 9) (by decide)⟩

end Sys2Proof.Machine
end

section
/-! Faults are precise (spec/60_exceptions.md R146): an operation that checks a length either takes its fault, and has then
written nothing else, or accepts, and then reports a result that is no fault. -/

namespace Sys2Proof.Machine

/-- When the operation reports a fault, it has done no more than take it. -/
def FaultsPrecisely (op : State → State) : Prop :=
  ∀ (s : State) (f : BlockFault), (op s).reply = .fault f → op s = takeFault f s

theorem takeFault_faultsPrecisely (g : BlockFault) : FaultsPrecisely (takeFault g) := by
  intro s f hf
  cases hf
  rfl

theorem buildFrame_faultsPrecisely (hi lo : Byte) (pay : List Byte) : FaultsPrecisely (buildFrame hi lo pay) := by
  intro s f hf
  cases h : badPayloadLength s.cfg pay.length with
  | true => rw [buildFrame_refuses h] at hf ⊢; exact takeFault_faultsPrecisely _ s f hf
  | false => rw [buildFrame_accepts h] at hf; cases hf

theorem parseFrame_faultsPrecisely (rx : List Byte) : FaultsPrecisely (parseFrame rx) := by
  intro s f hf
  cases h : badFrameLength s.cfg rx.length with
  | true => rw [parseFrame_refuses h] at hf ⊢; exact takeFault_faultsPrecisely _ s f hf
  | false => rw [parseFrame_accepts h] at hf; cases hf

/-- A mismatch is a result of the field parser, not a fault (60_exceptions.md R141). -/
theorem deliverField_reply_ne_fault (r : FieldResult) (s : State) (f : BlockFault) : (deliverField r s).reply ≠ .fault f := by
  cases r <;> simp [deliverField]

theorem parseField_faultsPrecisely (rx : List Byte) : FaultsPrecisely (parseField rx) := by
  intro s f hf
  by_cases h : rx.length = 6
  · rw [parseField_accepts h] at hf; exact absurd hf (deliverField_reply_ne_fault _ _ f)
  · rw [parseField_refuses h] at hf ⊢; exact takeFault_faultsPrecisely _ s f hf

theorem parseMeasurement_faultsPrecisely (rx : List Byte) : FaultsPrecisely (parseMeasurement rx) := by
  intro s f hf
  by_cases h : rx.length = measLen
  · rw [parseMeasurement_accepts h] at hf; cases hf
  · rw [parseMeasurement_refuses h] at hf ⊢; exact takeFault_faultsPrecisely _ s f hf

/-- Operation by operation; the checksum operations and the float decoder report no fault (60_exceptions.md R142). -/
theorem exec_operation_faultsPrecisely {i : Instr} {s t : State} {f : BlockFault} (hop : isOperation i = true)
    (h : exec i s = .next t) (hf : t.reply = .fault f) : t = takeFault f s := by
  cases i with
  | reserved0 => cases h; exact takeFault_faultsPrecisely .illegalOp s f hf
  | crcCompute b0 b1 => cases h; cases hf
  | crcValidate b0 b1 c => cases h; cases hf
  | frameBuild hi lo pay => cases h; exact buildFrame_faultsPrecisely hi lo _ s f hf
  | frameParse rx => cases h; exact parseFrame_faultsPrecisely rx s f hf
  | fieldParse rx => cases h; exact parseField_faultsPrecisely rx s f hf
  | floatDecode w => cases h; cases hf
  | measParse rx => cases h; exact parseMeasurement_faultsPrecisely rx s f hf
  | _ => cases hop

/-- Settles O21: the state is `takeFault`'s, whose code is the statement's for each fault. -/
theorem faultEntryIsPrecise : Obligations.FaultEntryIsPrecise := by
  intro i s t f hop h hf
  rw [exec_operation_faultsPrecisely hop h hf]
  cases f <;> rfl

end Sys2Proof.Machine
end

section
/-! The decoder and the encoder are inverse to each other (spec/30_encoding.md R50, R58), through the request layout of entry 2:
the operations' requests carry their operands, and a command's row is found again by its code where the codes differ. -/

namespace Sys2Proof.Machine

/-! ### Operand bytes -/

theorem payloadOperand_getD_of_ne {pay : Option (List Byte)} (h : pay ≠ some []) : payloadOperand (pay.getD []) = pay := by
  match pay, h with
  | none, _ => rfl
  | some (_ :: _), _ => rfl

theorem getD_payloadOperand (bs : List Byte) : (payloadOperand bs).getD [] = bs := by
  cases bs <;> rfl

theorem payloadOperand_ne (bs : List Byte) : payloadOperand bs ≠ some [] := by
  cases bs <;> simp [payloadOperand]

theorem frameBuild_wellFormed_iff (hi lo : Byte) (pay : Option (List Byte)) :
    (Instr.frameBuild hi lo pay).wellFormed = true ↔ pay ≠ some [] := by
  rcases pay with _ | _ | _ <;> simp [Instr.wellFormed]

/-- The four bytes of a word, big-endian, are that word again. -/
theorem wordOfBytes_bytesOfWord (w : Word) :
    wordOfBytes (w.extractLsb' 24 8) (w.extractLsb' 16 8) (w.extractLsb' 8 8) (w.extractLsb' 0 8) = w := by
  rw [wordOfBytes_eq_append, BitVec.extractLsb'_append_extractLsb'_eq_extractLsb' (by rfl),
    BitVec.extractLsb'_append_extractLsb'_eq_extractLsb' (by rfl),
    BitVec.extractLsb'_append_extractLsb'_eq_extractLsb' (by rfl), BitVec.extractLsb'_eq_self]

theorem bytesOfWord_append (b0 b1 b2 b3 : Byte) : bytesOfWord (b0 ++ b1 ++ b2 ++ b3) = [b0, b1, b2, b3] := by
  simp only [bytesOfWord, List.cons.injEq, and_true]
  refine ⟨?_, ?_, ?_, ?_⟩ <;> refine BitVec.eq_of_getLsbD_eq fun i hi => ?_ <;>
    simp only [BitVec.getLsbD_extractLsb', BitVec.getLsbD_append] <;> grind

/-! ### The rows of a command table -/

/-- A row that is found has the code that was looked up. -/
theorem lookupCommand_some {hi lo : Byte} {rows : List (CommandRow × Instr)} {i : Instr}
    (h : lookupCommand hi lo rows = some i) : ∃ r, (r, i) ∈ rows ∧ r.hi = hi ∧ r.lo = lo := by
  induction rows with
  | nil => cases h
  | cons p rows ih =>
    obtain ⟨r, j⟩ := p
    by_cases hcode : r.hasCode hi lo = true
    · rw [lookupCommand, if_pos hcode] at h
      cases h
      exact ⟨r, List.mem_cons_self, by simpa [CommandRow.hasCode] using hcode⟩
    · rw [lookupCommand, if_neg hcode] at h
      obtain ⟨r', hmem, hcode'⟩ := ih h
      exact ⟨r', List.mem_cons_of_mem _ hmem, hcode'⟩

/-- Where the codes differ, each row is found by its code. -/
theorem lookupCommand_of_mem {rows : List (CommandRow × Instr)} (hnodup : (rows.map fun p => (p.1.hi, p.1.lo)).Nodup)
    {r : CommandRow} {i : Instr} (hmem : (r, i) ∈ rows) : lookupCommand r.hi r.lo rows = some i := by
  induction rows with
  | nil => cases hmem
  | cons p rows ih =>
    obtain ⟨hp, hrest⟩ := List.nodup_cons.mp hnodup
    rcases List.mem_cons.mp hmem with rfl | hmem
    · exact if_pos (by simp [CommandRow.hasCode])
    · have hne : p.1.hasCode r.hi r.lo = false := by
        refine Bool.eq_false_iff.mpr fun hcode => hp (List.mem_map.mpr ⟨(r, i), hmem, ?_⟩)
        obtain ⟨hhi, hlo⟩ : p.1.hi = r.hi ∧ p.1.lo = r.lo := by simpa [CommandRow.hasCode] using hcode
        simp only [hhi, hlo]
      rw [← ih hrest hmem, lookupCommand, hne]
      rfl

/-- A command without an operand is requested by its row's code alone. -/
theorem encode_plain {t : CommandTable} {r : CommandRow} {i : Instr} (h : (r, i) ∈ plainCommands t) :
    encode t i = r.request [] := by
  have hall : (plainCommands t).map (fun p => encode t p.2) = (plainCommands t).map (fun p => p.1.request []) := rfl
  exact List.map_inj_left.mp hall (r, i) h

/-- A command without an operand is well formed and no operation of the block. -/
theorem plain_wellFormed {t : CommandTable} {r : CommandRow} {i : Instr} (h : (r, i) ∈ plainCommands t) :
    i.wellFormed = true ∧ isOperation i = false := by
  have hall : ((plainCommands t).map Prod.snd).all (fun i => i.wellFormed && !isOperation i) = true := rfl
  simpa using List.all_eq_true.mp hall i (List.mem_map_of_mem h)

theorem decode_encode_plain {t : CommandTable} (ht : t.wellFormed = true) {i : Instr}
    (hmem : i ∈ (plainCommands t).map Prod.snd) : decode t (encode t i) = .ok i := by
  obtain ⟨⟨r, _⟩, hr, rfl⟩ := List.mem_map.mp hmem
  have hcodes : ((plainCommands t).map fun p => (p.1.hi, p.1.lo)).Nodup := of_decide_eq_true ht
  rw [encode_plain hr, CommandRow.request, decode, decodeCmd, lookupCommand_of_mem hcodes hr]

/-! ### The obligations -/

/-- Settles O1: an operation's request carries its operands; the fourteen commands without an operand are rows found by their
codes, and the write is told apart by its four bytes. -/
theorem decodeEncodeRoundTrip : Obligations.DecodeEncodeRoundTrip := by
  refine ⟨fun t i ht hi => ?_, rfl⟩
  cases i with
  | reserved0 => rfl
  | crcCompute b0 b1 => rfl
  | crcValidate b0 b1 c => rfl
  | frameBuild hi' lo pay =>
    have hpay := payloadOperand_getD_of_ne ((frameBuild_wellFormed_iff hi' lo pay).mp hi)
    exact congrArg (fun p => Except.ok (Instr.frameBuild hi' lo p)) hpay
  | frameParse rx => rfl
  | fieldParse rx => rfl
  | floatDecode w => exact congrArg (fun w => Except.ok (Instr.floatDecode w)) (wordOfBytes_bytesOfWord w)
  | measParse rx => rfl
  | cmdWriteAutoclean seconds =>
    simp [encode, CommandRow.request, decode, decodeCmd, bytesOfWord, CommandRow.hasCode, wordOfBytes_bytesOfWord]
  | _ => exact decode_encode_plain ht (by simp [plainCommands])

/-- A command's request is the only one that selects it. -/
theorem decodeCmd_ok {t : CommandTable} {hi lo : Byte} {bs : List Byte} {i : Instr} (h : decodeCmd t hi lo bs = .ok i) :
    i.wellFormed = true ∧ isOperation i = false ∧ .cmd hi lo bs = encode t i := by
  unfold decodeCmd at h
  split at h
  · split at h
    case h_1 j hj =>
      cases h
      obtain ⟨r, hmem, rfl, rfl⟩ := lookupCommand_some hj
      obtain ⟨hwf, hop⟩ := plain_wellFormed hmem
      exact ⟨hwf, hop, (encode_plain hmem).symm⟩
    case h_2 => cases h
  · split at h
    case isTrue hcode =>
      cases h
      obtain ⟨rfl, rfl⟩ : t.writeAutoclean.hi = hi ∧ t.writeAutoclean.lo = lo := by simpa [CommandRow.hasCode] using hcode
      exact ⟨rfl, rfl, by rw [encode, wordOfBytes_eq_append, bytesOfWord_append]; rfl⟩
    case isFalse => cases h
  · cases h

/-- An operation's request is the only one that selects it, but for the operand bytes beside the reserved code. -/
theorem decodeOp_ok {code : BitVec 3} {bs : List Byte} {i : Instr} (h : decodeOp code bs = .ok i) (t : CommandTable) :
    (code = 0 ∧ i = .reserved0) ∨
    (code ≠ 0 ∧ i ≠ .reserved0 ∧ i.wellFormed = true ∧ .op code bs = encode t i) := by
  unfold decodeOp at h
  split_ifs at h with h0 h1 h2 h3 h4 h5 h6
  · cases h
    exact .inl ⟨h0, rfl⟩
  all_goals refine .inr ⟨h0, ?_⟩
  · split at h <;> cases h
    exact ⟨by simp, rfl, h1 ▸ rfl⟩
  · split at h <;> cases h
    exact ⟨by simp, rfl, h2 ▸ rfl⟩
  · split at h <;> cases h
    exact ⟨by simp, (frameBuild_wellFormed_iff _ _ _).mpr (payloadOperand_ne _), by rw [h3, encode, getD_payloadOperand]⟩
  · cases h
    exact ⟨by simp, rfl, h4 ▸ rfl⟩
  · cases h
    exact ⟨by simp, rfl, h5 ▸ rfl⟩
  · split at h <;> cases h
    exact ⟨by simp, rfl, by rw [h6, encode, wordOfBytes_eq_append, bytesOfWord_append]⟩
  · cases h
    exact ⟨by simp, rfl, by rw [show code = 7 by bv_omega]; rfl⟩

/-- Settles O2: `decodeOp_ok` and `decodeCmd_ok`, the two shapes of a request. -/
theorem decodedRequestsAreCanonical : Obligations.DecodedRequestsAreCanonical := by
  intro t r i h
  cases r with
  | op code bs =>
    rcases decodeOp_ok h t with ⟨rfl, rfl⟩ | ⟨hcode, hne, hwf, henc⟩
    · exact ⟨rfl, fun hne => absurd rfl hne, iff_of_true rfl ⟨bs, rfl⟩⟩
    · exact ⟨hwf, fun _ => henc, iff_of_false hne fun ⟨_, hop⟩ => hcode (Request.op.inj hop).1⟩
  | cmd hi lo bs =>
    obtain ⟨hwf, hop, henc⟩ := decodeCmd_ok h
    refine ⟨hwf, fun _ => henc, iff_of_false ?_ (by simp)⟩
    rintro rfl
    cases hop

end Sys2Proof.Machine
end

section
/-! Rounding to thousandths (spec/43_float_decode.md R94): `round3` is the floor or the integer after it, by the remainder. It is
nearest under every tie rule, monotone in the fraction, and under the spec's rule the one nearest integer that is even on a tie. -/

namespace Sys2Proof.Machine

section
variable {num : Int} {den : Nat}

/-! ### `round3` by the remainder -/

theorem breakTie_cases (tie : TieRule) (num f : Int) : breakTie tie num f = f ∨ breakTie tie num f = f + 1 := by
  cases tie
  · exact ite_eq_or_eq _ _ _
  · exact .inr rfl
  · exact ite_eq_or_eq _ _ _

/-- The floor, or the integer after it: the nearer of the two. -/
theorem round3_cases (tie : TieRule) (num : Int) (den : Nat) :
    (round3 tie num den = num / den ∧ 2 * (num % den) ≤ den) ∨
    (round3 tie num den = num / den + 1 ∧ den ≤ 2 * (num % den)) := by
  simp only [round3]
  split_ifs with hup hdown
  · exact .inr ⟨rfl, hup.le⟩
  · exact .inl ⟨rfl, hdown.le⟩
  · rcases breakTie_cases tie num (num / den) with h | h
    · exact .inl ⟨h, not_lt.mp hup⟩
    · exact .inr ⟨h, not_lt.mp hdown⟩

theorem round3_of_tie (tie : TieRule) (h : 2 * (num % den) = den) : round3 tie num den = breakTie tie num (num / den) := by
  simp [round3, h]

/-- The integer is within one half of `num / den`: both sides of that, times `2 * den`. -/
theorem round3_nearest (hden : 0 < den) (tie : TieRule) (num : Int) : |2 * (round3 tie num den * den - num)| ≤ den := by
  have hdiv := Int.mul_ediv_add_emod num den
  have hnonneg := Int.emod_nonneg num (by omega : (den : Int) ≠ 0)
  have hlt := Int.emod_lt_of_pos num (by omega : (0 : Int) < den)
  rw [abs_le]
  rcases round3_cases tie num den with ⟨h, hr⟩ | ⟨h, hr⟩ <;> rw [h] <;> constructor <;> linarith

/-- Rounding a fraction of an integer leads no further from 0 than that integer. -/
theorem abs_round3_le (hden : 0 < den) (tie : TieRule) (num : Int) : |round3 tie num den| ≤ |num| := by
  have hnear := round3_nearest hden tie num
  have hscale : |round3 tie num den * den| = |round3 tie num den| * den := by rw [abs_mul, Nat.abs_cast]
  have htri := abs_sub_abs_le_abs_sub (round3 tie num den * den) num
  rw [abs_mul, abs_two] at hnear
  by_contra! hgt
  have : (|num| + 1) * den ≤ |round3 tie num den| * den := by gcongr; omega
  have : |num| ≤ |num| * den := le_mul_of_one_le_right (abs_nonneg num) (by omega)
  linarith

/-! ### The spec's tie rule -/

theorem breakTie_halfEven_even (num f : Int) : breakTie .halfEven num f % 2 = 0 := by
  simp only [breakTie]
  split_ifs <;> omega

/-- Exactly one half away, the integer is even. -/
theorem round3_halfEven_tie (hden : 0 < den) (h : |2 * (round3 .halfEven num den * den - num)| = den) :
    round3 .halfEven num den % 2 = 0 := by
  have hdiv := Int.mul_ediv_add_emod num den
  have hnonneg := Int.emod_nonneg num (by omega : (den : Int) ≠ 0)
  have hlt := Int.emod_lt_of_pos num (by omega : (0 : Int) < den)
  have htie : 2 * (num % den) = den := by
    rcases round3_cases .halfEven num den with ⟨he, -⟩ | ⟨he, -⟩ <;> rw [he] at h <;>
      rcases eq_or_eq_neg_of_abs_eq h with h | h <;> linarith
  rw [round3_of_tie .halfEven htie]
  exact breakTie_halfEven_even num _

/-- The nearest integer, even on a tie, is the one `round3` gives. -/
theorem eq_round3_halfEven (hden : 0 < den) {q : Int} (hnear : |2 * (q * den - num)| ≤ den)
    (heven : |2 * (q * den - num)| = den → q % 2 = 0) : q = round3 .halfEven num den := by
  have hnear' := round3_nearest hden .halfEven num
  have heven' := round3_halfEven_tie (num := num) hden
  generalize round3 .halfEven num den = q' at hnear' heven'
  rw [abs_le] at hnear hnear'
  have hpos : (0 : Int) < den := by omega
  have hle : q ≤ q' + 1 := by
    by_contra! hgt
    have : (q' + 1 + 1) * den ≤ q * den := by gcongr; omega
    linarith
  have hge : q' ≤ q + 1 := by
    by_contra! hgt
    have : (q + 1 + 1) * den ≤ q' * den := by gcongr; omega
    linarith
  rcases (by omega : q = q' ∨ q = q' + 1 ∨ q' = q + 1) with h | rfl | rfl
  · exact h
  · have h1 := heven (by rw [abs_of_nonneg] <;> linarith)
    have h2 := heven' (by rw [abs_of_nonpos] <;> linarith)
    omega
  · have h1 := heven (by rw [abs_of_nonpos] <;> linarith)
    have h2 := heven' (by rw [abs_of_nonneg] <;> linarith)
    omega

/-- Under the spec's rule rounding is odd. -/
theorem round3_halfEven_neg (hden : 0 < den) (num : Int) : round3 .halfEven (-num) den = -round3 .halfEven num den := by
  have herror : |2 * (-round3 .halfEven num den * den - -num)| = |2 * (round3 .halfEven num den * den - num)| := by
    rw [← abs_neg]; ring_nf
  refine (eq_round3_halfEven hden ?_ fun htie => ?_).symm
  · rw [herror]; exact round3_nearest hden .halfEven num
  · have := round3_halfEven_tie hden (herror ▸ htie)
    omega

/-! ### Monotony and zero -/

/-- On a tie the fraction is below 0 when its floor is. -/
theorem neg_iff_ediv_neg (hden : 0 < den) (num : Int) : num < 0 ↔ num / den < 0 := by
  rw [Int.ediv_lt_iff_lt_mul (by omega), zero_mul]

theorem breakTie_congr {num' f : Int} (h : num < 0 ↔ num' < 0) (tie : TieRule) :
    breakTie tie num f = breakTie tie num' f := by
  simp only [breakTie, h]

section
variable {num' : Int} {den' : Nat} (hden : 0 < den) (hden' : 0 < den') (h : num * den' ≤ num' * den)
include h

/-- With one floor, the fractional parts are in the order of the fractions. -/
theorem emod_mul_le_of_ediv_eq (hfloor : num / den = num' / den') : num % den * den' ≤ num' % den' * den := by
  have hdiv := Int.mul_ediv_add_emod num den
  have hdiv' := Int.mul_ediv_add_emod num' den'
  rw [← hfloor] at hdiv'
  nlinarith

include hden hden'

/-- The floors of two fractions are in their order. -/
theorem ediv_le_ediv_of_mul_le : num / den ≤ num' / den' := by
  have hpos : (0 : Int) < den := by omega
  have hfloor : num / den * den ≤ num := Int.ediv_mul_le num hpos.ne'
  rw [Int.le_ediv_iff_mul_le (by omega)]
  refine le_of_mul_le_mul_right ?_ hpos
  nlinarith

/-- A fraction not above another rounds to an integer not above the other's. With one floor this turns on the fractional parts,
and two ties at one floor are broken alike. -/
theorem round3_mono (tie : TieRule) : round3 tie num den ≤ round3 tie num' den' := by
  have hcases := round3_cases tie num den
  have hcases' := round3_cases tie num' den'
  rcases (ediv_le_ediv_of_mul_le hden hden' h).lt_or_eq with hfloor | hfloor
  · omega
  · have hfrac := emod_mul_le_of_ediv_eq h hfloor
    rcases hcases with ⟨hq, -⟩ | ⟨hq, hr⟩
    · omega
    rcases hcases' with ⟨hq', hr'⟩ | ⟨hq', -⟩
    · have htie' : 2 * (num' % den') = den' := by
        refine le_antisymm hr' (le_of_mul_le_mul_left ?_ (by omega : (0 : Int) < den))
        nlinarith
      have htie : 2 * (num % den) = den := by
        refine le_antisymm (le_of_mul_le_mul_right ?_ (by omega : (0 : Int) < den')) hr
        nlinarith
      have hsign : num < 0 ↔ num' < 0 := by rw [neg_iff_ediv_neg hden num, neg_iff_ediv_neg hden' num', hfloor]
      rw [round3_of_tie tie htie, round3_of_tie tie htie', hfloor, breakTie_congr hsign]
    · omega
end

/-- Off the tie, a fraction rounds to 0 exactly below one half. -/
theorem round3_eq_zero_iff (hden : 0 < den) (tie : TieRule) (h : 2 * |num| ≠ den) :
    round3 tie num den = 0 ↔ 2 * |num| < den := by
  have hnear := round3_nearest hden tie num
  constructor
  · intro hq
    rw [hq, zero_mul, zero_sub, abs_mul, abs_two, abs_neg] at hnear
    exact lt_of_le_of_ne hnear h
  · intro hlt
    by_contra hq
    have hone : 1 ≤ |round3 tie num den| := Int.one_le_abs hq
    have hscale : |round3 tie num den * den| = |round3 tie num den| * den := by rw [abs_mul, Nat.abs_cast]
    have htri := abs_sub_abs_le_abs_sub (round3 tie num den * den) num
    rw [abs_mul, abs_two] at hnear
    nlinarith
end

end Sys2Proof.Machine
end

section
/-! FLOAT.DECODE on words with `E` below 255 (spec/43_float_decode.md R91 to R97): the fraction that is rounded is 1000 times the
exact value of the word, so what holds of `round3` holds of the count. -/

namespace Sys2Proof.Machine

/-! ### The fraction of a word -/

theorem decodeFloat_finite (tie : TieRule) {w : Word} (h : exponentField w ≠ 255) :
    decodeFloat tie w = { cls := .fin, q := round3 tie (thousandthsNum w) (thousandthsDen w) } :=
  if_neg (by rwa [biasedExponent_eq_exponentField])

theorem exponentField_lt (w : Word) : exponentField w < 256 := Nat.mod_lt _ (by decide)

theorem mantissaField_lt (w : Word) : mantissaField w < 2 ^ 23 := Nat.mod_lt _ (by decide)

theorem thousandthsDen_eq (w : Word) : thousandthsDen w = 2 ^ (150 - exponentField w) := by
  rw [thousandthsDen, biasedExponent_eq_exponentField]

theorem thousandthsDen_pos (w : Word) : 0 < thousandthsDen w := Nat.two_pow_pos _

theorem thousandthsNum_eq (w : Word) :
    thousandthsNum w =
      (if w.getLsbD 31 then -1 else 1) *
        ((1000 * (2 ^ 23 + mantissaField w) * 2 ^ (exponentField w - 150) : Nat) : Int) := by
  simp only [thousandthsNum, biasedExponent_eq_exponentField, mantissa_eq_mantissaField, signBit]
  split <;> simp only [neg_mul, one_mul]

theorem abs_thousandthsNum (w : Word) :
    |thousandthsNum w| = ((1000 * (2 ^ 23 + mantissaField w) * 2 ^ (exponentField w - 150) : Nat) : Int) := by
  have hsign : |(if w.getLsbD 31 then -1 else 1 : Int)| = 1 := by split <;> rfl
  rw [thousandthsNum_eq, abs_mul, Nat.abs_cast, hsign, one_mul]

/-- The power of two of the exact value, as the model divides it between numerator and denominator. -/
theorem two_zpow_mul_den (e : Nat) : (2 : ℚ) ^ ((e : ℤ) - 127) * 2 ^ (150 - e) = 2 ^ 23 * 2 ^ (e - 150) := by
  simp only [← zpow_natCast (2 : ℚ)]
  rw [← zpow_add₀ two_ne_zero, ← zpow_add₀ two_ne_zero]
  congr 1
  omega

/-- The fraction is 1000 times the exact value of the word (43_float_decode.md R91, R92). -/
theorem thousandthsNum_cast (w : Word) : (thousandthsNum w : ℚ) = 1000 * wordValue w * thousandthsDen w := by
  have hpow := two_zpow_mul_den (exponentField w)
  have hvalue : wordValue w = (if w.getLsbD 31 then -1 else 1) * (1 + (mantissaField w : ℚ) / 2 ^ 23)
      * (2 : ℚ) ^ ((exponentField w : ℤ) - 127) := rfl
  rw [hvalue, thousandthsDen_eq, thousandthsNum_eq]
  push_cast
  linear_combination (-1000 * (if w.getLsbD 31 then -1 else 1) * (1 + (mantissaField w : ℚ) / 2 ^ 23)) * hpow

/-- How far an integer is from 1000 times the value, in the terms of `round3`. -/
theorem abs_sub_value_mul (q : Int) (w : Word) :
    |(q : ℚ) - 1000 * wordValue w| * (2 * thousandthsDen w) =
      ((|2 * (q * thousandthsDen w - thousandthsNum w)| : ℤ) : ℚ) := by
  have hden : (0 : ℚ) ≤ 2 * thousandthsDen w := by positivity
  rw [← abs_of_nonneg hden, ← abs_mul, Int.cast_abs]
  push_cast
  rw [thousandthsNum_cast]
  ring_nf

/-! ### The count is the nearest one -/

section
variable {w : Word} (h : exponentField w ≠ 255)
include h

theorem abs_count_sub_value_le (tie : TieRule) : |((decodeFloat tie w).q : ℚ) - 1000 * wordValue w| ≤ 1 / 2 := by
  have hden : (0 : ℚ) < thousandthsDen w := by exact_mod_cast thousandthsDen_pos w
  have hnear : ((|2 * ((decodeFloat tie w).q * thousandthsDen w - thousandthsNum w)| : ℤ) : ℚ) ≤ thousandthsDen w := by
    rw [decodeFloat_finite tie h]
    exact_mod_cast round3_nearest (thousandthsDen_pos w) tie _
  rw [← abs_sub_value_mul] at hnear
  nlinarith

theorem count_even_of_tie (htie : |((decodeFloat .halfEven w).q : ℚ) - 1000 * wordValue w| = 1 / 2) :
    (decodeFloat .halfEven w).q % 2 = 0 := by
  have hscale := abs_sub_value_mul (decodeFloat .halfEven w).q w
  rw [htie, ← mul_assoc, one_div, inv_mul_cancel₀ two_ne_zero, one_mul] at hscale
  rw [decodeFloat_finite .halfEven h] at hscale ⊢
  exact round3_halfEven_tie (thousandthsDen_pos w) (by exact_mod_cast hscale.symm)
end

/-- Settles O26: the reading of a finite word, its nearness and, on a tie, its evenness. -/
theorem floatDecodeRoundsToThousandths : Obligations.FloatDecodeRoundsToThousandths := by
  intro w s h
  have hcls : (decodeFloat s.cfg.tieRule w).cls = .fin := by rw [decodeFloat_finite s.cfg.tieRule h]
  refine ⟨_, (decodeFloat s.cfg.tieRule w).q, exec_floatDecode w s, ?_, abs_count_sub_value_le h _, fun htie => ?_⟩
  · rw [← hcls]; rfl
  · rw [htie]; exact count_even_of_tie h

/-- Settles O28: from `E` = 150 on 1000 times the value is an integer, and no other integer is within one half of it. -/
theorem floatDecodeExactOnIntegers : Obligations.FloatDecodeExactOnIntegers := by
  intro tie w hlow hhigh
  have hnear := abs_count_sub_value_le (w := w) (by omega) tie
  have hden : thousandthsDen w = 1 := by rw [thousandthsDen_eq, Nat.sub_eq_zero_of_le hlow, pow_zero]
  have hint := thousandthsNum_cast w
  rw [hden, Nat.cast_one, mul_one] at hint
  rw [← hint] at hnear ⊢
  have hclose : |(decodeFloat tie w).q - thousandthsNum w| < 1 := by
    have : ((|(decodeFloat tie w).q - thousandthsNum w| : ℤ) : ℚ) < 1 := by
      rw [Int.cast_abs, Int.cast_sub]; linarith
    exact_mod_cast this
  rw [sub_eq_zero.mp (Int.abs_lt_one_iff.mp hclose)]

/-- Settles O30: the order of two values is that of their fractions, and `round3` keeps it. -/
theorem floatDecodeMonotone : Obligations.FloatDecodeMonotone := by
  intro tie w1 w2 h1 h2 hle
  rw [decodeFloat_finite tie h1, decodeFloat_finite tie h2]
  refine round3_mono (thousandthsDen_pos w1) (thousandthsDen_pos w2) ?_ tie
  have hcross : (thousandthsNum w1 : ℚ) * thousandthsDen w2 ≤ thousandthsNum w2 * thousandthsDen w1 := by
    rw [thousandthsNum_cast, thousandthsNum_cast]
    calc 1000 * wordValue w1 * thousandthsDen w1 * thousandthsDen w2
        = wordValue w1 * (1000 * thousandthsDen w1 * thousandthsDen w2) := by ring
      _ ≤ wordValue w2 * (1000 * thousandthsDen w1 * thousandthsDen w2) := by gcongr
      _ = 1000 * wordValue w2 * thousandthsDen w2 * thousandthsDen w1 := by ring
  exact_mod_cast hcross

/-! ### The range of counts -/

/-- `1000 * 2^24 * 2^104` is below `2^138`. -/
theorem abs_count_lt (tie : TieRule) (w : Word) : |(decodeFloat tie w).q| < 2 ^ 138 := by
  by_cases h : exponentField w = 255
  · rw [decodeFloat_special tie h]; norm_num
  · rw [decodeFloat_finite tie h]
    refine (abs_round3_le (thousandthsDen_pos w) tie _).trans_lt ?_
    have hexp : 2 ^ (exponentField w - 150) ≤ 2 ^ 104 :=
      Nat.pow_le_pow_right (by decide) (by have := exponentField_lt w; omega)
    have hmant := mantissaField_lt w
    have hnum : 1000 * (2 ^ 23 + mantissaField w) * 2 ^ (exponentField w - 150) ≤ 1000 * 2 ^ 24 * 2 ^ 104 :=
      Nat.mul_le_mul (by omega) hexp
    rw [abs_thousandthsNum]
    exact_mod_cast hnum.trans_lt (by norm_num)

/-- Below one half of a thousandth: the exponent alone tells it but for `E` = 116, and no word is on the tie. -/
theorem two_mul_num_lt_den_iff (e : Nat) {m : Nat} (hm : m < 2 ^ 23) :
    2 * (1000 * (2 ^ 23 + m) * 2 ^ (e - 150)) ≠ 2 ^ (150 - e) ∧
    (2 * (1000 * (2 ^ 23 + m) * 2 ^ (e - 150)) < 2 ^ (150 - e) ↔ e ≤ 115 ∨ (e = 116 ∧ m ≤ 0x03126E)) := by
  rcases (by omega : e ≤ 115 ∨ e = 116 ∨ 117 ≤ e) with h | rfl | h
  · have hden : 2 ^ 35 ≤ 2 ^ (150 - e) := Nat.pow_le_pow_right (by decide) (by omega)
    rw [Nat.sub_eq_zero_of_le (by omega : e ≤ 150)]
    omega
  · omega
  · have hden : 2 ^ (150 - e) ≤ 2 ^ 33 := Nat.pow_le_pow_right (by decide) (by omega)
    have hnum : 1000 * 2 ^ 23 * 1 ≤ 1000 * (2 ^ 23 + m) * 2 ^ (e - 150) :=
      Nat.mul_le_mul (by omega) Nat.one_le_two_pow
    omega

theorem count_eq_zero_iff (tie : TieRule) {w : Word} (h : exponentField w ≠ 255) :
    (decodeFloat tie w).q = 0 ↔ exponentField w ≤ 115 ∨ (exponentField w = 116 ∧ mantissaField w ≤ 0x03126E) := by
  obtain ⟨hne, hlt⟩ := two_mul_num_lt_den_iff (exponentField w) (mantissaField_lt w)
  have hzero := round3_eq_zero_iff (num := thousandthsNum w) (thousandthsDen_pos w) tie
  rw [abs_thousandthsNum, thousandthsDen_eq] at hzero
  rw [decodeFloat_finite tie h, thousandthsDen_eq, hzero (by exact_mod_cast hne), ← hlt]
  exact_mod_cast Iff.rfl

/-- Settles O31: `count_eq_zero_iff` and `abs_count_lt`. -/
theorem floatDecodeRange : Obligations.FloatDecodeRange :=
  ⟨fun tie _ h => count_eq_zero_iff tie h, abs_count_lt⟩

/-! ### The sign bit -/

/-- The word with its sign bit flipped. -/
def flipSign (w : Word) : Word := w ^^^ 0x80000000

theorem signBit_flipSign (w : Word) : signBit (flipSign w) = !signBit w := by
  rw [signBit, flipSign, BitVec.getLsbD_xor, show (0x80000000 : Word).getLsbD 31 = true from rfl, Bool.xor_true]; rfl

theorem biasedExponent_flipSign (w : Word) : biasedExponent (flipSign w) = biasedExponent w := by
  rw [biasedExponent, flipSign, BitVec.extractLsb'_xor, show (0x80000000 : Word).extractLsb' 23 8 = 0#8 from rfl,
    BitVec.xor_zero]; rfl

theorem mantissa_flipSign (w : Word) : mantissa (flipSign w) = mantissa w := by
  rw [mantissa, flipSign, BitVec.extractLsb'_xor, show (0x80000000 : Word).extractLsb' 0 23 = 0#23 from rfl,
    BitVec.xor_zero]; rfl

theorem thousandthsNum_flipSign (w : Word) : thousandthsNum (flipSign w) = -thousandthsNum w := by
  simp only [thousandthsNum, signBit_flipSign, biasedExponent_flipSign, mantissa_flipSign]
  cases signBit w <;> simp only [Bool.not_true, Bool.not_false, Bool.false_eq_true, if_true, if_false, neg_neg]

theorem thousandthsDen_flipSign (w : Word) : thousandthsDen (flipSign w) = thousandthsDen w := by
  rw [thousandthsDen, biasedExponent_flipSign]; rfl

/-- The class of the negated value. -/
def negClass : FloatClass → FloatClass
  | .fin => .fin
  | .pinf => .ninf
  | .ninf => .pinf
  | .nan => .nan

theorem specialClass_flipSign (w : Word) : specialClass (flipSign w) = negClass (specialClass w) := by
  rw [specialClass, specialClass, mantissa_flipSign, signBit_flipSign]
  by_cases hmant : mantissa w ≠ 0
  · rw [if_pos hmant, if_pos hmant]; rfl
  · rw [if_neg hmant, if_neg hmant]
    cases signBit w <;> rfl

/-- Settles O29: the flip leaves the exponent and the mantissa, so a finite word's fraction is negated and a special word's
infinities are swapped. -/
theorem floatDecodeNegates : Obligations.FloatDecodeNegates := by
  intro w
  change decodeFloat .halfEven (flipSign w) =
    { cls := negClass (decodeFloat .halfEven w).cls, q := -(decodeFloat .halfEven w).q }
  by_cases h : biasedExponent w = 255
  · rw [decodeFloat, if_pos ((biasedExponent_flipSign w).trans h), decodeFloat, if_pos h, specialClass_flipSign]; rfl
  · rw [decodeFloat, if_neg (by rwa [biasedExponent_flipSign]), decodeFloat, if_neg h, thousandthsNum_flipSign,
      thousandthsDen_flipSign, round3_halfEven_neg (thousandthsDen_pos w)]
    rfl

end Sys2Proof.Machine
end

section
/-! MEAS.PARSE's results on a frame of 60 bytes (spec/44_measurement.md R103, R107, R108), field by field in the reference forms: a
field gives its word exactly when its two triplets are valid, and a sub-block's report and values follow from its fields. -/

namespace Sys2Proof.Machine

/-! ### One field -/

theorem validAt_even (rx : List Byte) (i : Nat) :
    ValidAt rx (2 * i) ↔ refChecksum (byteAt rx (6 * i)) (byteAt rx (6 * i + 1)) = byteAt rx (6 * i + 2) := by
  rw [ValidAt, show 3 * (2 * i) = 6 * i by omega]

theorem validAt_odd (rx : List Byte) (i : Nat) :
    ValidAt rx (2 * i + 1) ↔ refChecksum (byteAt rx (6 * i + 3)) (byteAt rx (6 * i + 4)) = byteAt rx (6 * i + 5) := by
  rw [ValidAt, show 3 * (2 * i + 1) = 6 * i + 3 by omega]

section
variable {rx : List Byte} {i : Nat} (h : 6 * i + 6 ≤ rx.length)
include h

/-- The per-field step on field `i` (42_frame_parse.md R87). -/
theorem fieldResult_fieldBytes :
    fieldResult (fieldBytes rx i) =
      if FieldValid rx i then .word (wordAt rx i)
      else .mismatch (failtOf (decide (ValidAt rx (2 * i))) (decide (ValidAt rx (2 * i + 1)))) := by
  rw [fieldBytes_eq rx i h, fieldResult_six_ref]
  simp only [FieldValid, validAt_even, validAt_odd, Bool.and_eq_true, decide_eq_true_eq]
  rfl

theorem fieldResult_of_valid (hvalid : FieldValid rx i) : fieldResult (fieldBytes rx i) = .word (wordAt rx i) := by
  rw [fieldResult_fieldBytes h, if_pos hvalid]

theorem fieldResult_of_invalid (hinvalid : ¬ FieldValid rx i) :
    fieldResult (fieldBytes rx i) =
      .mismatch ((if ValidAt rx (2 * i) then 0 else 1) + (if ValidAt rx (2 * i + 1) then 0 else 2)) := by
  rw [fieldResult_fieldBytes h, if_neg hinvalid, failtOf_eq_add]
  simp only [decide_eq_true_eq]

theorem fieldResult_word_iff : (∃ w, fieldResult (fieldBytes rx i) = .word w) ↔ FieldValid rx i := by
  by_cases hvalid : FieldValid rx i
  · exact iff_of_true ⟨_, fieldResult_of_valid h hvalid⟩ hvalid
  · exact iff_of_false (by simp [fieldResult_of_invalid h hvalid]) hvalid
end

/-! ### A sub-block's report -/

section
variable {rx : List Byte} {count first : Nat} (h : 6 * (first + count) ≤ rx.length)
include h

theorem scanReport_valid_iff :
    (scanReport rx count first).valid = true ↔ ∀ i, first ≤ i → i < first + count → FieldValid rx i := by
  rw [scanReport_valid]
  exact forall₃_congr fun i _ hi => fieldResult_word_iff (by omega)

/-- The report names the first field with an invalid triplet and which of its triplets are invalid. -/
theorem scanReport_of_first_invalid {i : Nat} (hfirst : first ≤ i) (hpast : i < first + count)
    (hbefore : ∀ j, first ≤ j → j < i → FieldValid rx j) (hinvalid : ¬ FieldValid rx i) :
    (scanReport rx count first).valid = false ∧ (scanReport rx count first).failf = BitVec.ofNat 4 i ∧
    (scanReport rx count first).failt =
      (if ValidAt rx (2 * i) then 0 else 1) + (if ValidAt rx (2 * i + 1) then 0 else 2) := by
  have hflag : (scanReport rx count first).valid = false :=
    Bool.eq_false_iff.mpr fun hvalid => hinvalid ((scanReport_valid_iff h).mp hvalid i hfirst hpast)
  obtain ⟨j, t, hj, hj', hwords, hmismatch, hfailf, hfailt⟩ := scanReport_of_invalid rx count first hflag
  obtain rfl : j = i := by
    rcases Nat.lt_trichotomy j i with hlt | heq | hgt
    · rw [fieldResult_of_valid (by omega) (hbefore j hj hlt)] at hmismatch
      cases hmismatch
    · exact heq
    · exact absurd ((fieldResult_word_iff (by omega)).mp (hwords i hfirst hgt)) hinvalid
  rw [fieldResult_of_invalid (by omega) hinvalid] at hmismatch
  cases hmismatch
  exact ⟨hflag, hfailf, hfailt⟩
end

/-! ### The flags -/

/-- The flag of a field's sub-block is the validity its report gives. -/
theorem flagOfField_measurementOf (tie : TieRule) (rx : List Byte) (i : Nat) :
    flagOfField (measurementOf tie rx) i = (reportOfField rx i).valid := by
  rw [flagOfField, reportOfField, apply_ite SubBlockReport.valid, apply_ite SubBlockReport.valid]; rfl

section
variable {rx : List Byte} (h : rx.length = 60)
include h

theorem sbvMd_iff (tie : TieRule) : (measurementOf tie rx).sbvMd = true ↔ ∀ i, i < 4 → FieldValid rx i := by
  rw [measurementOf, reportMd, scanReport_valid_iff (by omega)]
  exact forall_congr' fun i => by simp

theorem sbvPc_iff (tie : TieRule) : (measurementOf tie rx).sbvPc = true ↔ ∀ i, 4 ≤ i → i < 9 → FieldValid rx i := by
  rw [measurementOf, reportPc, scanReport_valid_iff (by omega)]

theorem sbvPs_iff (tie : TieRule) : (measurementOf tie rx).sbvPs = true ↔ FieldValid rx 9 := by
  rw [measurementOf, reportPs, scanReport_valid_iff (by omega)]
  constructor
  · exact fun hall => hall 9 (le_refl 9) (by omega)
  · rintro hvalid i h1 h2
    rwa [show i = 9 by omega]
end

theorem complete_iff_flags (tie : TieRule) (rx : List Byte) :
    (measurementOf tie rx).complete = true ↔
      (measurementOf tie rx).sbvMd = true ∧ (measurementOf tie rx).sbvPc = true ∧ (measurementOf tie rx).sbvPs = true := by
  simp only [measurementOf, completeOf, Bool.and_eq_true, and_assoc]

section
variable {rx : List Byte} (h : rx.length = 60)
include h

theorem complete_iff (tie : TieRule) : (measurementOf tie rx).complete = true ↔ ∀ i, i < 10 → FieldValid rx i := by
  rw [complete_iff_flags, sbvMd_iff h, sbvPc_iff h, sbvPs_iff h]
  constructor
  · rintro ⟨hmd, hpc, hps⟩ i hi
    rcases (by omega : i < 4 ∨ (4 ≤ i ∧ i < 9) ∨ i = 9) with hi | ⟨hi, hi'⟩ | rfl
    · exact hmd i hi
    · exact hpc i hi hi'
    · exact hps
  · exact fun hall => ⟨fun i hi => hall i (by omega), fun i _ hi => hall i (by omega), hall 9 (by omega)⟩

/-- A field of a valid sub-block is valid. -/
theorem fieldValid_of_report {i : Nat} (hi : i < 10) (hvalid : (reportOfField rx i).valid = true) : FieldValid rx i := by
  rcases (by omega : i < 4 ∨ (4 ≤ i ∧ i < 9) ∨ 9 ≤ i) with hmd | ⟨hpc, hpc'⟩ | hps
  · rw [reportOfField_md hmd] at hvalid
    exact (scanReport_valid_iff (by omega)).mp hvalid i (by omega) (by omega)
  · rw [reportOfField_pc hpc hpc'] at hvalid
    exact (scanReport_valid_iff (by omega)).mp hvalid i hpc (by omega)
  · rw [reportOfField_ps hps] at hvalid
    exact (scanReport_valid_iff (by omega)).mp hvalid i hps (by omega)

/-- `MV[i]` is the decoded word of its field under its sub-block's flag. -/
theorem measurementOf_mv_eq (tie : TieRule) (i : Fin 10) :
    (measurementOf tie rx).mv[i] =
      if flagOfField (measurementOf tie rx) i then some (decodeFloat tie (wordAt rx i)) else none := by
  rw [measurementOf_mv, flagOfField_measurementOf, measuredValue]
  split
  case isTrue hvalid => rw [fieldResult_of_valid (by omega) (fieldValid_of_report h i.isLt hvalid)]
  case isFalse => rfl
end

/-! ### The obligations on the results -/

/-- Settles O33: `scanReport_of_valid` and `scanReport_of_first_invalid` at each sub-block. -/
theorem measParseReportsTheFirstFailure : Obligations.MeasParseReportsTheFirstFailure := by
  intro rx s t hlen hexec reports
  have hscan : ∀ first count, 6 * (first + count) ≤ rx.length → first + count ≤ 10 →
      reports first count (scanReport rx count first).valid (scanReport rx count first).failf
        (scanReport rx count first).failt := by
    refine fun first count hfits hten => ⟨scanReport_of_valid rx count first, fun i hfirst hpast hbefore hinvalid => ?_⟩
    obtain ⟨hflag, hfailf, hfailt⟩ := scanReport_of_first_invalid hfits hfirst hpast hbefore hinvalid
    refine ⟨hflag, ?_, hfailt⟩
    rw [hfailf, BitVec.toNat_ofNat, Nat.mod_eq_of_lt (by omega)]
  rw [exec_measParse_meas hlen hexec]
  exact ⟨hscan 0 4 (by omega) (by omega), hscan 4 5 (by omega) (by omega), hscan 9 1 (by omega) (by omega)⟩

/-- Settles O34: the measurement delivered, entry by entry. -/
theorem measParseValuesAreAllOrNothing : Obligations.MeasParseValuesAreAllOrNothing := by
  intro rx s t hlen hexec i
  rw [exec_measParse_meas hlen hexec]
  exact measurementOf_mv_eq hlen s.cfg.tieRule i

/-! ### The published Sample -/

theorem publishedSample_of_incomplete {m : Measurement} (h : m.complete = false) : publishedSample m = none := by
  rw [publishedSample, h]; rfl

/-- With every field valid the Sample is the ten decoded words in field order. -/
theorem publishedSample_of_valid {rx : List Byte} (hlen : rx.length = 60) (hall : ∀ i, i < 10 → FieldValid rx i)
    (tie : TieRule) :
    publishedSample (measurementOf tie rx) = some (List.ofFn fun i : Fin 10 => decodeFloat tie (wordAt rx i)) := by
  have hvalue : (fun i : Fin 10 => measuredValue tie rx i) = some ∘ fun i : Fin 10 => decodeFloat tie (wordAt rx i) := by
    funext i
    have hreport : (reportOfField rx i).valid = true := by
      obtain ⟨hmd, hpc, hps⟩ := (complete_iff_flags tie rx).mp ((complete_iff hlen tie).mpr hall)
      rw [← flagOfField_measurementOf tie, flagOfField, hmd, hpc, hps, ite_self, ite_self]
    rw [measuredValue, if_pos hreport, fieldResult_of_valid (by omega) (hall i i.isLt)]; rfl
  rw [publishedSample, (complete_iff hlen tie).mpr hall, if_pos rfl, measurementOf, Vector.toList_ofFn, hvalue,
    ← List.map_ofFn, List.filterMap_map, Function.id_comp, List.filterMap_some]

/-- The Sample of a frame: its ten values when every field is valid, and the empty one otherwise. -/
theorem publishedSample_cases {rx : List Byte} (hlen : rx.length = 60) (tie : TieRule) :
    ((∀ i, i < 10 → FieldValid rx i) →
      ∃ values, publishedSample (measurementOf tie rx) = some values ∧ values.length = 10 ∧
        ∀ i : Fin 10, values[i.val]? = some (decodeFloat tie (wordAt rx i))) ∧
    ((∃ i, i < 10 ∧ ¬ FieldValid rx i) → publishedSample (measurementOf tie rx) = none) := by
  constructor
  · intro hall
    exact ⟨_, publishedSample_of_valid hlen hall tie, List.length_ofFn, fun i => by rw [List.getElem?_ofFn, dif_pos i.isLt]⟩
  · rintro ⟨i, hi, hinvalid⟩
    exact publishedSample_of_incomplete (Bool.eq_false_iff.mpr fun hc => hinvalid ((complete_iff hlen tie).mp hc i hi))

/-- Settles O37: the Sample is made of the measurement delivered. -/
theorem noPartialSampleIsPublished : Obligations.NoPartialSampleIsPublished := by
  intro rx s t hlen hexec
  rw [exec_measParse_meas hlen hexec]
  exact ⟨complete_iff_flags s.cfg.tieRule rx, publishedSample_cases hlen s.cfg.tieRule⟩

end Sys2Proof.Machine
end

section
/-! MEAS.PARSE's registers on a frame of 60 bytes (spec/44_measurement.md R104, R107; entry 17): the working registers are those of
the last field, and `W` is the last word assembled. -/

namespace Sys2Proof.Machine

/-! ### The working registers -/

/-- The two strides of field `i`. -/
theorem afterStrides_field {rx : List Byte} {i : Nat} (h : 6 * i + 6 ≤ rx.length) (s : State) :
    afterStrides (fieldBytes rx i) s =
      { s with d0 := byteAt rx (6 * i + 3), d1 := byteAt rx (6 * i + 4), dc := byteAt rx (6 * i + 5),
               crc := refChecksum (byteAt rx (6 * i + 3)) (byteAt rx (6 * i + 4)),
               v := decide (ValidAt rx (2 * i + 1)), idx := s.idx + 6, written := { s.written with v := true } } := by
  rw [fieldBytes_eq rx i h, afterStrides_cons, afterStrides_cons, afterStrides_nil, stride_eq, stride_eq]
  simp only [validAt_odd]
  rfl

/-- The scan of one field leaves the working registers of its second triplet, whether or not the field is valid. -/
theorem scanRegisters_one {rx : List Byte} {i : Nat} (h : 6 * i + 6 ≤ rx.length) (s : State) :
    scanRegisters rx 1 i s =
      { s with d0 := byteAt rx (6 * i + 3), d1 := byteAt rx (6 * i + 4), dc := byteAt rx (6 * i + 5),
               crc := refChecksum (byteAt rx (6 * i + 3)) (byteAt rx (6 * i + 4)),
               v := decide (ValidAt rx (2 * i + 1)), idx := 6 * i + 6, w := (scanRegisters rx 1 i s).w,
               written := { s.written with v := true, w := (scanRegisters rx 1 i s).written.w } } := by
  simp only [scanRegisters, afterStrides_field h, fieldLen]
  cases fieldResult (fieldBytes rx i) <;> rfl

theorem measureRegisters_eq {rx : List Byte} (h : rx.length = 60) (s : State) :
    measureRegisters rx s =
      { s with d0 := byteAt rx 57, d1 := byteAt rx 58, dc := byteAt rx 59,
               crc := refChecksum (byteAt rx 57) (byteAt rx 58), v := decide (ValidAt rx 19), idx := 60,
               w := (measureRegisters rx s).w,
               written := { s.written with v := true, w := (measureRegisters rx s).written.w } } := by
  simp only [measureRegisters]
  rw [scanRegisters_one (by omega), scanRegisters_frame rx 5 4, scanRegisters_frame rx 4 0]

/-- Settles O32: the registers are `measureRegisters_eq`'s, and the flags are those of the measurement delivered. -/
theorem measParseSetsTheFlags : Obligations.MeasParseSetsTheFlags := by
  intro rx s hlen
  refine ⟨parseMeasurement rx s, measurementOf s.cfg.tieRule rx, rfl, ?_, sbvMd_iff hlen _, sbvPc_iff hlen _,
    sbvPs_iff hlen _, complete_iff_flags _ rx⟩
  rw [parseMeasurement_accepts hlen, measureRegisters_eq hlen]

/-! ### The last word assembled -/

/-- Between two states `W` took the words of the fields in `P`, in order: it holds the word of the last of them, and is as it
was when there is none. -/
structure TookWords (rx : List Byte) (P : Nat → Prop) (s t : State) : Prop where
  last : ∀ i, P i → (∀ k, i < k → ¬ P k) → t.w = wordAt rx i ∧ t.written.w = true
  unchanged : (∀ i, ¬ P i) → t.w = s.w ∧ t.written.w = s.written.w

theorem TookWords.of_unchanged {rx : List Byte} {P : Nat → Prop} {s t : State} (hP : ∀ i, ¬ P i) (hw : t.w = s.w)
    (hmark : t.written.w = s.written.w) : TookWords rx P s t where
  last i hi := absurd hi (hP i)
  unchanged _ := ⟨hw, hmark⟩

theorem TookWords.congr {rx : List Byte} {P Q : Nat → Prop} {s t : State} (h : TookWords rx P s t) (hPQ : ∀ i, P i ↔ Q i) :
    TookWords rx Q s t := by
  rwa [show Q = P from funext fun i => propext (hPQ i).symm]

/-- The words of `P`, then those of later fields. -/
theorem TookWords.trans {rx : List Byte} {P Q : Nat → Prop} {s t u : State} (hP : TookWords rx P s t)
    (hQ : TookWords rx Q t u) (horder : ∀ i k, P i → Q k → i < k) : TookWords rx (fun i => P i ∨ Q i) s u where
  last i hi hlast := by
    rcases hi with hi | hi
    · have hnone : ∀ k, ¬ Q k := fun k hk => hlast k (horder i k hi hk) (.inr hk)
      obtain ⟨hw, hmark⟩ := hQ.unchanged hnone
      rw [hw, hmark]
      exact hP.last i hi fun k hk hPk => hlast k hk (.inl hPk)
    · exact hQ.last i hi fun k hk hQk => hlast k hk (.inr hQk)
  unchanged hnone := by
    obtain ⟨hw, hmark⟩ := hP.unchanged fun i hi => hnone i (.inl hi)
    obtain ⟨hw', hmark'⟩ := hQ.unchanged fun i hi => hnone i (.inr hi)
    exact ⟨hw'.trans hw, hmark'.trans hmark⟩

/-- Field `i` is among the `count` fields from `first` on, and none of these up to it has an invalid triplet. -/
def AssembledFrom (rx : List Byte) (first count i : Nat) : Prop :=
  first ≤ i ∧ i < first + count ∧ ∀ j, first ≤ j → j ≤ i → FieldValid rx j

theorem assembledFrom_succ {rx : List Byte} {first : Nat} (hvalid : FieldValid rx first) (count i : Nat) :
    i = first ∨ AssembledFrom rx (first + 1) count i ↔ AssembledFrom rx first (count + 1) i := by
  constructor
  · rintro (rfl | ⟨hfirst, hpast, hall⟩)
    · exact ⟨le_refl i, by omega, fun j h1 h2 => by rwa [show j = i by omega]⟩
    · refine ⟨by omega, by omega, fun j h1 h2 => ?_⟩
      rcases Nat.eq_or_lt_of_le h1 with rfl | h1
      · exact hvalid
      · exact hall j h1 h2
  · rintro ⟨hfirst, hpast, hall⟩
    rcases Nat.eq_or_lt_of_le hfirst with rfl | hfirst
    · exact .inl rfl
    · exact .inr ⟨hfirst, by omega, fun j h1 h2 => hall j (by omega) h2⟩

theorem scanRegisters_of_word {rx : List Byte} {first : Nat} {w : Word} (h : fieldResult (fieldBytes rx first) = .word w)
    (count : Nat) (s : State) :
    scanRegisters rx (count + 1) first s =
      scanRegisters rx count (first + 1)
        (takeWord w (afterStrides (fieldBytes rx first) { s with idx := fieldLen * first })) := by
  rw [scanRegisters, h]; rfl

theorem scanRegisters_of_mismatch {rx : List Byte} {first : Nat} {t : BitVec 2}
    (h : fieldResult (fieldBytes rx first) = .mismatch t) (count : Nat) (s : State) :
    scanRegisters rx (count + 1) first s = afterStrides (fieldBytes rx first) { s with idx := fieldLen * first } := by
  rw [scanRegisters, h]

/-- The scan of a sub-block takes the words of its fields up to the first that fails (44_measurement.md R103). -/
theorem scanRegisters_tookWords {rx : List Byte} {count first : Nat} (h : 6 * (first + count) ≤ rx.length) (s : State) :
    TookWords rx (AssembledFrom rx first count) s (scanRegisters rx count first s) := by
  induction count generalizing first s with
  | zero => exact .of_unchanged (by rintro i ⟨hfirst, hpast, -⟩; omega) rfl rfl
  | succ count ih =>
    by_cases hvalid : FieldValid rx first
    · rw [scanRegisters_of_word (fieldResult_of_valid (by omega) hvalid)]
      refine TookWords.congr (TookWords.trans (P := (· = first)) ?_ (ih (by omega) _) ?_)
        (assembledFrom_succ hvalid count)
      · exact ⟨fun i hi _ => hi ▸ ⟨rfl, rfl⟩, fun hnone => absurd rfl (hnone first)⟩
      · rintro i k rfl ⟨hk, -⟩
        exact hk
    · rw [scanRegisters_of_mismatch (fieldResult_of_invalid (by omega) hvalid), afterStrides_field (by omega)]
      refine .of_unchanged ?_ rfl rfl
      rintro i ⟨hfirst, -, hall⟩
      exact hvalid (hall first (le_refl _) hfirst)

/-- The fields assembled are those of the three scans. -/
theorem assembledFrom_iff (rx : List Byte) (i : Nat) :
    AssembledFrom rx 0 4 i ∨ AssembledFrom rx 4 5 i ∨ AssembledFrom rx 9 1 i ↔ i < 10 ∧ Assembled rx i := by
  rcases (by omega : i < 4 ∨ (4 ≤ i ∧ i < 9) ∨ i = 9 ∨ 10 ≤ i) with hi | ⟨hi, hi'⟩ | rfl | hi
  · simp only [AssembledFrom, Assembled, if_pos hi]
    grind
  · simp only [AssembledFrom, Assembled, if_neg (by omega : ¬ i < 4), if_pos hi']
    grind
  · simp [AssembledFrom, Assembled]
  · simp only [AssembledFrom]
    omega

theorem measureRegisters_tookWords {rx : List Byte} (h : rx.length = 60) (s : State) :
    TookWords rx (fun i => i < 10 ∧ Assembled rx i) s (measureRegisters rx s) := by
  have hmd := scanRegisters_tookWords (rx := rx) (count := 4) (first := 0) (by omega) s
  have hpc := scanRegisters_tookWords (rx := rx) (count := 5) (first := 4) (by omega) (scanRegisters rx 4 0 s)
  have hps := scanRegisters_tookWords (rx := rx) (count := 1) (first := 9) (by omega)
    (scanRegisters rx 5 4 (scanRegisters rx 4 0 s))
  refine (hmd.trans (hpc.trans hps ?_) ?_).congr (assembledFrom_iff rx)
  · rintro i k ⟨-, hi, -⟩ ⟨hk, -⟩
    omega
  · rintro i k ⟨-, hi, -⟩ (⟨hk, -⟩ | ⟨hk, -⟩) <;> omega

/-- Settles O36: `TookWords` of the fields assembled is what the statement says of `W` and its mark. -/
theorem measParseLeavesTheLastWord : Obligations.MeasParseLeavesTheLastWord := by
  intro rx s t hlen hexec
  change Host.Outcome.next (parseMeasurement rx s) = .next t at hexec
  rw [parseMeasurement_accepts hlen] at hexec
  cases hexec
  obtain ⟨hlast, hunchanged⟩ := measureRegisters_tookWords hlen s
  exact ⟨fun i hi hass hlater => hlast i ⟨hi, hass⟩ fun k hk hassk => hlater k hk hassk.1 hassk.2,
    fun hnone => hunchanged fun i hi => hnone i hi.1 hi.2⟩

end Sys2Proof.Machine
end

section
/-! The invariant of the registers (spec/10_state.md R15, R16, R18 to R20). What it says of `ERR`, the decoded values and
MEAS.PARSE's registers is kept by every update that leaves these alone; what remains of each operation is its reply, and the values
that FLOAT.DECODE and MEAS.PARSE write. -/

namespace Sys2Proof.Machine

/-! ### Values and reports that are written -/

theorem readingOk_decodeFloat (tie : TieRule) (w : Word) : ReadingOk (decodeFloat tie w) := by
  refine ⟨fun hcls => ?_, abs_count_lt tie w⟩
  by_cases h : exponentField w = 255
  · rw [decodeFloat_special tie h]
  · rw [decodeFloat_finite tie h] at hcls
    exact absurd rfl hcls

theorem failtOf_ne_zero {v0 v1 : Bool} (h : ¬ (v0 && v1) = true) : failtOf v0 v1 ≠ 0 := by
  cases v0 <;> cases v1
  case true.true => exact absurd rfl h
  all_goals decide

/-- A mismatch names a triplet. -/
theorem fieldResult_mismatch_ne_zero {rx : List Byte} {t : BitVec 2} (h : fieldResult rx = .mismatch t) : t ≠ 0 := by
  unfold fieldResult at h
  split at h
  · split at h
    case isTrue => cases h
    case isFalse hinvalid =>
      cases h
      exact failtOf_ne_zero hinvalid
  · cases h
    decide

theorem subBlockOk_scanReport (rx : List Byte) {count first : Nat} (hfits : first + count ≤ 16) :
    SubBlockOk first count (scanReport rx count first).valid (scanReport rx count first).failf
      (scanReport rx count first).failt := by
  cases hvalid : (scanReport rx count first).valid with
  | true => simpa [SubBlockOk] using scanReport_of_valid rx count first hvalid
  | false =>
    obtain ⟨i, t, hfirst, hpast, -, hmismatch, hfailf, hfailt⟩ := scanReport_of_invalid rx count first hvalid
    have hi : (BitVec.ofNat 4 i).toNat = i := by rw [BitVec.toNat_ofNat, Nat.mod_eq_of_lt (by omega)]
    simpa [SubBlockOk, hfailf, hfailt, hi] using ⟨hfirst, hpast, fieldResult_mismatch_ne_zero hmismatch⟩

theorem measurementOk_measurementOf {rx : List Byte} (h : rx.length = 60) (tie : TieRule) :
    MeasurementOk (measurementOf tie rx) := by
  refine ⟨rfl, subBlockOk_scanReport rx (by decide), subBlockOk_scanReport rx (by decide),
    subBlockOk_scanReport rx (by decide), fun i => ?_⟩
  rw [measurementOf_mv_eq h]
  cases flagOfField (measurementOf tie rx) i <;> rfl

theorem readingOk_measurementOf {rx : List Byte} (h : rx.length = 60) (tie : TieRule) {i : Fin 10} {r : Reading}
    (hr : (measurementOf tie rx).mv[i] = some r) : ReadingOk r := by
  rw [measurementOf_mv_eq h] at hr
  split at hr <;> cases hr
  exact readingOk_decodeFloat tie _

/-! ### The invariant without the reply -/

/-- What the invariant says of the registers, the reply aside. -/
structure RegistersOk (s : State) : Prop where
  err : s.err.toNat ≤ 3
  float : ReadingOk { cls := s.fc, q := s.fq }
  values : ∀ i : Fin 10, ∀ r, s.meas.mv[i] = some r → ReadingOk r
  absent : s.written.meas = false → ∀ i : Fin 10, s.meas.mv[i] = none
  measured : s.written.meas = true → MeasurementOk s.meas

theorem inv_iff (s : State) : Inv s ↔ RegistersOk s ∧ ReplyAgrees s :=
  ⟨fun ⟨h1, h2, h3, h4, h5, h6⟩ => ⟨⟨h1, h2, h3, h4, h5⟩, h6⟩, fun ⟨⟨h1, h2, h3, h4, h5⟩, h6⟩ => ⟨h1, h2, h3, h4, h5, h6⟩⟩

/-- The registers that `RegistersOk` speaks of are as they were. -/
def SameChecked (s t : State) : Prop :=
  t.err = s.err ∧ t.fc = s.fc ∧ t.fq = s.fq ∧ t.meas = s.meas ∧ t.written.meas = s.written.meas

theorem RegistersOk.of_same {s t : State} (h : RegistersOk s) (hsame : SameChecked s t) : RegistersOk t := by
  obtain ⟨herr, hfc, hfq, hmeas, hmark⟩ := hsame
  obtain ⟨h1, h2, h3, h4, h5⟩ := h
  constructor <;> simpa only [herr, hfc, hfq, hmeas, hmark]

theorem afterStrides_sameChecked (rx : List Byte) (s : State) : SameChecked s (afterStrides rx s) := by
  rw [afterStrides_frame]; exact ⟨rfl, rfl, rfl, rfl, rfl⟩

theorem afterBlocks_sameChecked (pay : List Byte) (s : State) : SameChecked s (afterBlocks pay s) := by
  rw [afterBlocks_frame]; exact ⟨rfl, rfl, rfl, rfl, rfl⟩

theorem measureRegisters_sameChecked (rx : List Byte) (s : State) : SameChecked s (measureRegisters rx s) := by
  simp only [measureRegisters]
  rw [scanRegisters_frame rx 1 9, scanRegisters_frame rx 5 4, scanRegisters_frame rx 4 0]
  exact ⟨rfl, rfl, rfl, rfl, rfl⟩

/-! ### The operations establish it -/

section
variable {s : State} (h : RegistersOk s)
include h

theorem takeFault_inv (f : BlockFault) : Inv (takeFault f s) := by
  obtain ⟨herr, hfloat, hvalues, habsent, hmeasured⟩ := h
  refine ⟨errAfterReply_le_three (.fault f) herr, hfloat, hvalues, habsent, hmeasured, ?_⟩
  change errAfter s.err f ≠ 0
  rw [errAfter]
  split
  · cases f <;> simp [faultCode]
  · assumption

theorem buildFrame_inv (hi lo : Byte) (pay : List Byte) : Inv (buildFrame hi lo pay s) := by
  cases hbad : badPayloadLength s.cfg pay.length with
  | true => rw [buildFrame_refuses hbad]; exact takeFault_inv h _
  | false =>
    rw [buildFrame_accepts hbad]
    exact (inv_iff _).mpr ⟨h.of_same (afterBlocks_sameChecked pay { s with idx := 0 }), trivial⟩

theorem parseFrame_inv (rx : List Byte) : Inv (parseFrame rx s) := by
  cases hbad : badFrameLength s.cfg rx.length with
  | true => rw [parseFrame_refuses hbad]; exact takeFault_inv h _
  | false =>
    rw [parseFrame_accepts hbad]
    exact (inv_iff _).mpr ⟨h.of_same (afterStrides_sameChecked rx { s with idx := 0 }), trivial⟩

theorem parseField_inv (rx : List Byte) : Inv (parseField rx s) := by
  by_cases hlen : rx.length = 6
  · have hstrides : RegistersOk (afterStrides rx { s with idx := 0 }) :=
      h.of_same (afterStrides_sameChecked rx { s with idx := 0 })
    rw [parseField_accepts hlen]
    cases hfield : fieldResult rx with
    | word w => exact (inv_iff _).mpr ⟨hstrides.of_same ⟨rfl, rfl, rfl, rfl, rfl⟩, rfl, rfl, rfl, rfl⟩
    | mismatch t =>
      exact (inv_iff _).mpr
        ⟨hstrides.of_same ⟨rfl, rfl, rfl, rfl, rfl⟩, rfl, fieldResult_mismatch_ne_zero hfield, rfl⟩
  · rw [parseField_refuses hlen]; exact takeFault_inv h _

theorem parseMeasurement_inv (rx : List Byte) : Inv (parseMeasurement rx s) := by
  by_cases hlen : rx.length = measLen
  · obtain ⟨herr, hfloat, -, -, -⟩ := h.of_same (measureRegisters_sameChecked rx s)
    rw [parseMeasurement_accepts hlen]
    exact ⟨herr, hfloat, fun _ _ => readingOk_measurementOf hlen s.cfg.tieRule, (by simp),
      fun _ => measurementOk_measurementOf hlen s.cfg.tieRule, rfl, rfl⟩
  · rw [parseMeasurement_refuses hlen]; exact takeFault_inv h _

/-- An operation of the block leaves the invariant, whatever was handed back before it. -/
theorem exec_operation_inv {i : Instr} {t : State} (hop : isOperation i = true) (hexec : exec i s = .next t) : Inv t := by
  cases i with
  | reserved0 => cases hexec; exact takeFault_inv h _
  | crcCompute b0 b1 => cases hexec; exact (inv_iff _).mpr ⟨h.of_same ⟨rfl, rfl, rfl, rfl, rfl⟩, rfl, rfl⟩
  | crcValidate b0 b1 c => cases hexec; exact (inv_iff _).mpr ⟨h.of_same ⟨rfl, rfl, rfl, rfl, rfl⟩, rfl, rfl⟩
  | frameBuild hi lo pay => cases hexec; exact buildFrame_inv h hi lo _
  | frameParse rx => cases hexec; exact parseFrame_inv h rx
  | fieldParse rx => cases hexec; exact parseField_inv h rx
  | floatDecode w =>
    cases hexec
    obtain ⟨herr, -, hvalues, habsent, hmeasured⟩ := h
    exact ⟨herr, readingOk_decodeFloat _ w, hvalues, habsent, hmeasured, rfl, rfl, rfl⟩
  | measParse rx => cases hexec; exact parseMeasurement_inv h rx
  | _ => cases hop
end

/-! ### The wrappers keep it -/

/-- The invariant does not speak of the transport. -/
theorem inv_withTransport {s : State} (h : Inv s) (tr : Transport) : Inv { s with transport := tr } :=
  ⟨h.err, h.float, h.values, h.absent, h.measured, h.reply⟩

/-- A failed call leaves the registers and hands back no result. -/
theorem inv_of_transportFailure {s : State} (h : Inv s) (tr : Transport) :
    Inv { s with transport := tr, reply := .transportFailure } :=
  ⟨h.err, h.float, h.values, h.absent, h.measured, trivial⟩

theorem transportWrite_inv {s : State} (h : Inv s) (tx : List Byte) : Inv (transportWrite tx s) := by
  rcases transportWrite_cases tx s with ⟨-, hw⟩ | ⟨-, hw⟩ <;> rw [hw]
  · exact inv_withTransport h _
  · exact inv_of_transportFailure h _

section
variable {parse : List Byte → State → State} (hparse : ∀ rx s, RegistersOk s → Inv (parse rx s))
include hparse

theorem transportRead_inv {s : State} (h : Inv s) (n : Nat) : Inv (transportRead n parse s) := by
  rcases transportRead_cases n parse s with ⟨-, hr⟩ | ⟨-, hr⟩ <;> rw [hr]
  · exact hparse _ _ ((inv_iff _).mp (inv_withTransport h _)).1
  · exact inv_of_transportFailure h _

theorem runCommand_inv {row : CommandRow} {pay : List Byte} {s t : State} (h : RegistersOk s)
    (hrun : runCommand row pay parse s = .next t) : Inv t := by
  have hbuild := buildFrame_inv h row.hi row.lo pay
  rcases runCommand_cases row pay parse s with ⟨-, hr⟩ | ⟨-, -, hr⟩ | ⟨-, -, hr⟩ <;> rw [hr] at hrun <;> cases hrun
  · exact takeFault_inv h _
  · rcases exchange_cases (frameOf row.hi row.lo pay) (row.response.getD 0) parse (buildFrame row.hi row.lo pay s) with
      ⟨-, -, he⟩ | ⟨-, -, he⟩ | ⟨-, he⟩ <;> rw [he]
    · exact transportWrite_inv hbuild _
    · exact transportRead_inv hparse (transportWrite_inv hbuild _) _
    · exact transportWrite_inv hbuild _
end

/-- What is not an operation of the block has an expansion. -/
theorem exists_expansion {i : Instr} (hop : isOperation i = false) (table : CommandTable) :
    ∃ ex, expansion table i = some ex :=
  Option.isSome_iff_exists.mp ((expansion_isSome table i).trans (by rw [hop]; rfl))

theorem exec_inv {i : Instr} {s t : State} (h : RegistersOk s) (hexec : exec i s = .next t) : Inv t := by
  cases hop : isOperation i with
  | true => exact exec_operation_inv h hop hexec
  | false =>
    obtain ⟨ex, hex⟩ := exists_expansion hop s.cfg.commands
    obtain ⟨parse, hparse, hrun⟩ := exec_of_expansion hex
    rw [hrun s rfl] at hexec
    exact runCommand_inv (fun rx s hs => exec_operation_inv hs (expansion_parse_isOperation hex rx) (hparse rx s)) h hexec

/-! ### The obligations -/

theorem reset_meas_absent (i : Fin 10) : State.reset.meas.mv[i] = none := by
  simp [State.reset, Measurement.reset]

/-- Settles O49: at reset the registers hold zeros, and `MV` is absent. -/
theorem invariantHoldsAtReset : Obligations.InvariantHoldsAtReset where
  err := Nat.zero_le 3
  float := ⟨fun _ => rfl, by simp [State.reset]⟩
  values i r hr := by rw [reset_meas_absent] at hr; cases hr
  absent _ := reset_meas_absent
  measured h := by cases h
  reply := trivial

/-- Settles O50: a step applies the reset event, which leaves the registers of reset, or performs an instruction. -/
theorem stepKeepsTheInvariant : Obligations.StepKeepsTheInvariant := by
  intro s t h hstep
  rcases step_cases hstep with ⟨rest, -, rfl⟩ | ⟨r, rest, i, -, -, hexec⟩
  · obtain ⟨herr, hfloat, hvalues, habsent, hmeasured, hreply⟩ := invariantHoldsAtReset
    exact ⟨herr, hfloat, hvalues, habsent, hmeasured, hreply⟩
  · have hregs : RegistersOk { s with pending := rest } := ((inv_iff s).mp h).1.of_same ⟨rfl, rfl, rfl, rfl, rfl⟩
    exact exec_inv hregs hexec

end Sys2Proof.Machine
end

section
/-! The checksum as an affine map (spec/40_crc.md R73, R75, R77): eight iterations are linear over exclusive or and lose nothing, and
they keep the parity of the bits. From these follow the laws of R77. -/

namespace Sys2Proof.Machine

/-! ### One mask at the end -/

/-- Masking after an iteration of the unbounded register is masking before one of the 8-bit register. -/
theorem wideIteration_semiconj : Function.Semiconj (· % 256) wideIteration refIteration := by
  intro c
  have hmask : ∀ a b : Nat, (a ^^^ b) % 256 = (a % 256) ^^^ (b % 256) := fun a b => Nat.xor_mod_two_pow (n := 8)
  have hbit : c % 256 / 128 % 2 = c / 128 % 2 := by omega
  have hshift : 2 * (c % 256) % 256 = 2 * c % 256 := by omega
  have hpoly : (if c / 128 % 2 = 1 then 0x31 else 0) % 256 = if c / 128 % 2 = 1 then 0x31 else 0 := by split <;> rfl
  simp only [wideIteration, refIteration, hmask, hbit, hshift, hpoly]

theorem wideCrc_mod (b0 b1 : Byte) : wideCrc b0.toNat b1.toNat % 256 = refCrc b0.toNat b1.toNat := by
  have hmask : ∀ a b : Nat, (a ^^^ b) % 256 = (a % 256) ^^^ (b % 256) := fun a b => Nat.xor_mod_two_pow (n := 8)
  have hiterate : ∀ c, wideIteration^[8] c % 256 = refIteration^[8] (c % 256) := wideIteration_semiconj.iterate_right 8
  rw [wideCrc, refCrc, hiterate, hmask, hiterate, hmask, Nat.mod_eq_of_lt b0.isLt, Nat.mod_eq_of_lt b1.isLt]

/-- Settles O10: the engine's number is the reference form's, and that is the unbounded register's after one mask. -/
theorem checksumMaskedOnceAtTheEnd : Obligations.ChecksumMaskedOnceAtTheEnd := fun b0 b1 => by
  rw [toNat_crc8, wideCrc_mod]

/-! ### CRC.VALIDATE -/

/-- Settles O9: the next state in the reference form; the one third byte that is valid is the checksum. -/
theorem crcValidateComparesTheChecksum : Obligations.CrcValidateComparesTheChecksum := by
  refine ⟨fun b0 b1 c s => ?_, fun b0 b1 c => ⟨[b0, b1, c], fun _ => rfl⟩, fun b0 b1 => ⟨crc8 b0 b1, by simp [tripletValid], ?_⟩,
    ?_⟩
  · rw [← tripletValid_eq_decide, ← crc8_eq_refChecksum]; rfl
  · intro c hc
    exact (of_decide_eq_true hc).symm
  · simp only [tripletValid_eq_decide]
    decide

/-! ### Eight iterations are linear and lose nothing -/

theorem xor_xor_xor_comm (a b c d : Byte) : (a ^^^ b) ^^^ (c ^^^ d) = (a ^^^ c) ^^^ (b ^^^ d) := by
  ac_rfl

theorem crcIteration_xor (a b : Byte) : crcIteration (a ^^^ b) = crcIteration a ^^^ crcIteration b := by
  simp only [crcIteration, BitVec.msb_xor, BitVec.shiftLeft_xor_distrib]
  cases a.msb <;> cases b.msb <;> simp only [Bool.bne_true, Bool.bne_false, Bool.not_true, Bool.not_false,
    Bool.false_eq_true, if_true, if_false]
  · ac_rfl
  · ac_rfl
  · rw [xor_xor_xor_comm, BitVec.xor_self, BitVec.xor_zero]

theorem crcIterate_xor (n : Nat) (a b : Byte) : crcIterate n (a ^^^ b) = crcIterate n a ^^^ crcIterate n b := by
  induction n generalizing a b with
  | zero => rfl
  | succ n ih => simp only [crcIterate, crcIteration_xor, ih]

theorem crcIterate_eq_zero {r : Byte} (h : crcIterate 8 r = 0) : r = 0 := by
  revert r; decide

theorem crcIterate_zero : crcIterate 8 0#8 = 0#8 := rfl

/-- What two data bytes contribute to the checksum, the linear part of it. -/
def syndrome (b0 b1 : Byte) : Byte := crcIterate 8 (crcIterate 8 b0 ^^^ b1)

theorem syndrome_xor (a0 a1 b0 b1 : Byte) : syndrome (a0 ^^^ b0) (a1 ^^^ b1) = syndrome a0 a1 ^^^ syndrome b0 b1 := by
  rw [syndrome, crcIterate_xor 8 a0 b0, xor_xor_xor_comm, crcIterate_xor]; rfl

/-- The checksum is its linear part and the part of `CRC_INIT`. -/
theorem crc8_eq_syndrome (b0 b1 : Byte) : crc8 b0 b1 = syndrome crcInit 0#8 ^^^ syndrome b0 b1 := by
  rw [← syndrome_xor, BitVec.zero_xor]; rfl

theorem crc8_zero : crc8 0 0 = syndrome crcInit 0#8 := rfl

/-- An error changes the checksum by its syndrome. -/
theorem crc8_xor (b0 b1 e0 e1 : Byte) : crc8 (b0 ^^^ e0) (b1 ^^^ e1) = crc8 b0 b1 ^^^ syndrome e0 e1 := by
  rw [crc8_eq_syndrome, syndrome_xor, ← BitVec.xor_assoc, ← crc8_eq_syndrome]

theorem crc8_xor_crc8_zero (b0 b1 : Byte) : crc8 b0 b1 ^^^ crc8 0 0 = syndrome b0 b1 := by
  rw [crc8_eq_syndrome, crc8_zero, BitVec.xor_comm, ← BitVec.xor_assoc, BitVec.xor_self, BitVec.zero_xor]

/-- Settles O12: what `crc8` adds to the checksum of zeros is the syndrome, which is linear. -/
theorem checksumIsAffine : Obligations.ChecksumIsAffine := fun a0 a1 b0 b1 => by
  rw [crc8_xor_crc8_zero, crc8_xor_crc8_zero, crc8_xor_crc8_zero, syndrome_xor]

/-! ### Bijections -/

theorem crcIterate_injective : Function.Injective (crcIterate 8) := fun a b h => by
  have hzero : crcIterate 8 (a ^^^ b) = 0 := by rw [crcIterate_xor, h, BitVec.xor_self]; rfl
  exact BitVec.xor_eq_zero_iff.mp (crcIterate_eq_zero hzero)

theorem crcAbsorb_injective_right (r : Byte) : Function.Injective (crcAbsorb r) := fun _ _ h =>
  BitVec.xor_right_inj r |>.mp (crcIterate_injective h)

theorem crcAbsorb_injective_left (b : Byte) : Function.Injective (crcAbsorb · b) := fun _ _ h =>
  BitVec.xor_left_inj b |>.mp (crcIterate_injective h)

theorem crc8_bijective_right (b0 : Byte) : Function.Bijective fun b1 => crc8 b0 b1 :=
  Finite.injective_iff_bijective.mp (crcAbsorb_injective_right _)

theorem crc8_bijective_left (b1 : Byte) : Function.Bijective fun b0 => crc8 b0 b1 :=
  Finite.injective_iff_bijective.mp ((crcAbsorb_injective_left b1).comp (crcAbsorb_injective_right crcInit))

theorem card_byte : Fintype.card Byte = 256 := by
  rw [← FinEnum.card_eq_fintypeCard, FinEnum.card_bitVec]; rfl

/-- Where each first component has one partner for a value, the pairs of that value are as many as the first components. -/
theorem card_pairs_of_value {α β γ : Type} [Fintype α] [Fintype β] [DecidableEq γ] {f : α → β → γ}
    (hf : ∀ a, Function.Bijective (f a)) (c : γ) :
    (Finset.univ.filter fun p : α × β => f p.1 p.2 = c).card = Fintype.card α := by
  rw [← Finset.card_univ]
  refine Finset.card_bij (fun p _ => p.1) (fun _ _ => Finset.mem_univ _) ?_ fun a _ => ?_
  · rintro ⟨a, b⟩ hb ⟨a', b'⟩ hb' (rfl : a = a')
    have hvalue : f a b = f a b' := (Finset.mem_filter.mp hb).2.trans (Finset.mem_filter.mp hb').2.symm
    rw [(hf a).injective hvalue]
  · obtain ⟨b, hb⟩ := (hf a).surjective c
    exact ⟨(a, b), Finset.mem_filter.mpr ⟨Finset.mem_univ _, hb⟩, rfl⟩

/-- Settles O11: each byte is absorbed injectively, and the blocks of a checksum value are one per first byte. -/
theorem checksumIsBijectiveInEachByte : Obligations.ChecksumIsBijectiveInEachByte :=
  ⟨crc8_bijective_right, crc8_bijective_left, fun c => (card_pairs_of_value crc8_bijective_right c).trans card_byte⟩

/-! ### Parity and the weight of errors -/

theorem filter_xor_length_mod_two {α : Type} (p q : α → Bool) (l : List α) :
    (l.filter fun i => p i ^^ q i).length % 2 = ((l.filter p).length + (l.filter q).length) % 2 := by
  induction l with
  | nil => rfl
  | cons x l ih =>
    simp only [List.filter_cons]
    cases p x <;> cases q x <;> simp <;> omega

theorem bitCount_xor_mod_two (a b : Byte) : bitCount (a ^^^ b) % 2 = (bitCount a + bitCount b) % 2 := by
  have hbit : (a ^^^ b).getLsbD = fun i => a.getLsbD i ^^ b.getLsbD i := funext fun i => BitVec.getLsbD_xor
  rw [bitCount, hbit]
  exact filter_xor_length_mod_two _ _ _

/-- The polynomial has an even number of terms, so an iteration keeps the parity of the register's bits. -/
theorem bitCount_crcIteration_mod_two (r : Byte) : bitCount (crcIteration r) % 2 = bitCount r % 2 := by
  revert r; decide

theorem bitCount_crcIterate_mod_two (n : Nat) (r : Byte) : bitCount (crcIterate n r) % 2 = bitCount r % 2 := by
  induction n generalizing r with
  | zero => rfl
  | succ n ih => rw [crcIterate, ih, bitCount_crcIteration_mod_two]

theorem bitCount_syndrome_mod_two (e0 e1 : Byte) : bitCount (syndrome e0 e1) % 2 = (bitCount e0 + bitCount e1) % 2 := by
  rw [syndrome, bitCount_crcIterate_mod_two, bitCount_xor_mod_two, Nat.add_mod, bitCount_crcIterate_mod_two, ← Nat.add_mod]

theorem eq_zero_of_bitCount {b : Byte} (h : bitCount b = 0) : b = 0#8 := by
  revert b; decide

/-- A changed byte and what becomes of it in the checksum are never two changed bits together. -/
theorem bitCount_add_crcIterate_ne_two (e : Byte) :
    bitCount e + bitCount (crcIterate 8 e) ≠ 2 ∧ bitCount e + bitCount (crcIterate 8 (crcIterate 8 e)) ≠ 2 := by
  revert e; decide

theorem syndrome_zero_left (e1 : Byte) : syndrome 0#8 e1 = crcIterate 8 e1 := by
  rw [syndrome, crcIterate_zero, BitVec.zero_xor]

theorem syndrome_zero_right (e0 : Byte) : syndrome e0 0#8 = crcIterate 8 (crcIterate 8 e0) := by
  rw [syndrome, BitVec.xor_zero]

/-- Two changed bits of a triplet are no error that passes, wherever they stand. -/
theorem syndrome_ne_of_bitCount_two {e0 e1 ec : Byte} (h : bitCount e0 + bitCount e1 + bitCount ec = 2) :
    syndrome e0 e1 ≠ ec := by
  rintro rfl
  obtain ⟨hone, htwo⟩ := bitCount_add_crcIterate_ne_two e0
  by_cases h0 : bitCount e0 = 0
  · obtain rfl := eq_zero_of_bitCount h0
    rw [syndrome_zero_left] at h
    exact (bitCount_add_crcIterate_ne_two e1).1 (by omega)
  by_cases h1 : bitCount e1 = 0
  · obtain rfl := eq_zero_of_bitCount h1
    rw [syndrome_zero_right] at h
    exact htwo (by omega)
  · have hnone : syndrome e0 e1 = 0#8 := eq_zero_of_bitCount (by omega)
    have he1 : crcIterate 8 e0 = e1 := BitVec.xor_eq_zero_iff.mp (crcIterate_eq_zero hnone)
    rw [he1] at hone
    omega

/-- No error of one to three bits passes: one or three by parity, two by where they stand. -/
theorem syndrome_ne_of_bitCount {e0 e1 ec : Byte} (hlow : 1 ≤ bitCount e0 + bitCount e1 + bitCount ec)
    (hhigh : bitCount e0 + bitCount e1 + bitCount ec ≤ 3) : syndrome e0 e1 ≠ ec := by
  intro h
  have hparity := bitCount_syndrome_mod_two e0 e1
  exact syndrome_ne_of_bitCount_two (by rw [h] at hparity; omega) h

/-- Settles O13: an error of up to three bits changes the checksum otherwise than the check byte; the polynomial itself is an error
of four bits that passes. -/
theorem checksumDetectsUpToThreeBitErrors : Obligations.ChecksumDetectsUpToThreeBitErrors := by
  refine ⟨fun b0 b1 c e0 e1 ec hvalid hlow hhigh => ?_, ?_⟩
  · obtain rfl : crc8 b0 b1 = c := of_decide_eq_true hvalid
    simp only [tripletValid, crc8_xor, BitVec.xor_right_inj]
    exact decide_eq_false (syndrome_ne_of_bitCount hlow hhigh)
  · refine ⟨0x00, 0x00, 0x81, 0x00, 0x01, 0x31, ?_⟩
    simp only [tripletValid_eq_decide]
    decide

end Sys2Proof.Machine
end

section
/-! What a host makes of a parse (spec/42_frame_parse.md R85, R87; spec/45_environment.md R111, R112): FRAME.PARSE's entries turn
back a built frame, do not depend on one another, and become data only when each of them is valid. -/

namespace Sys2Proof.Machine

/-! ### The reply of FRAME.PARSE and of FRAME.BUILD -/

theorem parseFrame_reply {s : State} {rx : List Byte} (hwhole : rx.length % 3 = 0)
    (hbound : Within rx.length s.cfg.maxResponseLen) : (parseFrame rx s).reply = .triplets (parseTriplets rx) := by
  rw [parseFrame_accepts (badFrameLength_eq_false hwhole hbound)]

/-- Entries that are delivered are those of the strides. -/
theorem parseFrame_triplets {s : State} {rx : List Byte} {tr : List Triplet} (h : (parseFrame rx s).reply = .triplets tr) :
    tr = parseTriplets rx := by
  cases hbad : badFrameLength s.cfg rx.length with
  | true => rw [parseFrame_refuses hbad] at h; cases h
  | false => rw [parseFrame_accepts hbad] at h; cases h; rfl

/-- A frame that is delivered is that of an even payload. -/
theorem buildFrame_frame_reply {s : State} {hi lo : Byte} {pay tx : List Byte}
    (h : (buildFrame hi lo pay s).reply = .frame tx) : pay.length % 2 = 0 ∧ tx = frameOf hi lo pay := by
  cases hbad : badPayloadLength s.cfg pay.length with
  | true => rw [buildFrame_refuses hbad] at h; cases h
  | false =>
    rw [buildFrame_accepts hbad] at h
    cases h
    refine ⟨?_, rfl⟩
    by_contra hodd
    rw [(badPayloadLength_iff _ _).mpr (.inl (by omega))] at hbad
    cases hbad

/-! ### The parser turns a frame back (41_frame_build.md R81) -/

section
variable {pay : List Byte} (h : pay.length % 2 = 0)
include h

theorem parseTriplets_frameBody_valid : ∀ e ∈ parseTriplets (frameBody pay), e.valid = true := by
  induction pay, h using blocks_induction with
  | nil => simp
  | cons b0 b1 rest _ ih => simpa [tripletValid] using ih

theorem tripletData_parseTriplets_frameBody : tripletData (parseTriplets (frameBody pay)) = pay := by
  induction pay, h using blocks_induction with
  | nil => rfl
  | cons b0 b1 rest _ ih => simpa [tripletData] using ih
end

/-- Settles O15: what stands after the two command bytes are the blocks of the payload. -/
theorem parserInvertsAssembler : Obligations.ParserInvertsAssembler := by
  intro hi lo pay tx s t s' hbuild hreply hbound
  cases hbuild
  obtain ⟨heven, rfl⟩ := buildFrame_frame_reply hreply
  have hlen := frameBody_length pay heven
  have hwhole : (frameBody pay).length % 3 = 0 := by omega
  refine ⟨parseFrame (frameBody pay) s', parseTriplets (frameBody pay), rfl, parseFrame_reply hwhole hbound, ?_,
    parseTriplets_frameBody_valid heven, tripletData_parseTriplets_frameBody heven⟩
  rw [parseTriplets_length _ hwhole]
  omega

/-- Settles O17: the entries delivered are those of the strides, and these concatenate. -/
theorem stridesAreIndependent : Obligations.StridesAreIndependent := by
  intro xs ys s s1 s2 t t1 t2 tr tr1 tr2 hwhole h hr h1 hr1 h2 hr2
  cases h
  cases h1
  cases h2
  rw [parseFrame_triplets hr, parseFrame_triplets hr1, parseFrame_triplets hr2, parseTriplets_append xs ys hwhole]

/-! ### Data bytes (45_environment.md R112) -/

@[simp] theorem tripletData_cons (e : Triplet) (tr : List Triplet) :
    tripletData (e :: tr) = e.b0 :: e.b1 :: tripletData tr := rfl

theorem tripletData_length (tr : List Triplet) : (tripletData tr).length = 2 * tr.length := by
  induction tr with
  | nil => rfl
  | cons e tr ih => simp only [tripletData_cons, List.length_cons, ih]; omega

/-- The two data bytes of entry `k`. -/
theorem tripletData_getElem? {tr : List Triplet} {k : Nat} {e : Triplet} (h : tr[k]? = some e) :
    (tripletData tr)[2 * k]? = some e.b0 ∧ (tripletData tr)[2 * k + 1]? = some e.b1 := by
  induction tr generalizing k with
  | nil => cases h
  | cons e' tr ih =>
    cases k with
    | zero => cases h; exact ⟨rfl, rfl⟩
    | succ k => exact ih h

theorem all_valid_iff {rx : List Byte} (h : rx.length % 3 = 0) :
    (parseTriplets rx).all (·.valid) = true ↔ ∀ k, k < rx.length / 3 → ValidAt rx k := by
  rw [List.all_eq_true]
  constructor
  · intro hall k hk
    have hmem := List.mem_of_getElem? (parseTriplets_getElem?_validAt h hk)
    exact of_decide_eq_true (hall _ hmem)
  · intro hall e he
    obtain ⟨k, hk⟩ := List.mem_iff_getElem?.mp he
    have hlt : k < rx.length / 3 := by
      rw [← parseTriplets_length rx h]
      exact (List.getElem?_eq_some_iff.mp hk).1
    rw [parseTriplets_getElem?_validAt h hlt] at hk
    cases hk
    exact decide_eq_true (hall k hlt)

/-! ### What a call returns -/

theorem callResult_triplets_of_invalid {tr : List Triplet} (h : ¬ tr.all (·.valid) = true) :
    callResult (.triplets tr) = .checksumMismatch :=
  if_neg h

theorem callResult_triplets_of_valid {tr : List Triplet} (h : tr.all (·.valid) = true) :
    callResult (.triplets tr) = .data (tripletData tr) :=
  if_pos h

/-- A field of six bytes is the field 0 of itself. -/
theorem fieldBytes_whole {rx : List Byte} (h : rx.length = 6) : fieldBytes rx 0 = rx := List.take_of_length_le h.le

theorem parseField_of_valid {rx : List Byte} (hlen : rx.length = 6) (hvalid : FieldValid rx 0) (s : State) :
    parseField rx s = deliverField (.word (wordAt rx 0)) (afterStrides rx { s with idx := 0 }) := by
  have hfield := fieldResult_of_valid (by omega) hvalid
  rw [fieldBytes_whole hlen] at hfield
  rw [parseField_accepts hlen, hfield]

theorem parseField_of_invalid {rx : List Byte} (hlen : rx.length = 6) (hinvalid : ¬ FieldValid rx 0) (s : State) :
    parseField rx s =
      deliverField (.mismatch ((if ValidAt rx 0 then 0 else 1) + (if ValidAt rx 1 then 0 else 2)))
        (afterStrides rx { s with idx := 0 }) := by
  have hfield := fieldResult_of_invalid (by omega) hinvalid
  rw [fieldBytes_whole hlen] at hfield
  rw [parseField_accepts hlen, hfield]

theorem parseMeasurement_reply {rx : List Byte} (hlen : rx.length = 60) (s : State) :
    (parseMeasurement rx s).reply = .measurement (measurementOf s.cfg.tieRule rx) := by
  rw [parseMeasurement_accepts hlen]

/-- Settles O47: the three parses a call can end in, by their replies. -/
theorem invalidTripletsYieldNoData : Obligations.InvalidTripletsYieldNoData := by
  refine ⟨fun rx s t hwhole hbound hexec => ?_, fun rx s t hlen hexec => ?_, fun rx s t hlen hexec => ?_⟩ <;> cases hexec
  · rw [parseFrame_reply hwhole hbound]
    constructor
    · rintro ⟨k, hk, hinvalid⟩
      exact callResult_triplets_of_invalid fun hall => hinvalid ((all_valid_iff hwhole).mp hall k hk)
    · intro hvalid
      refine ⟨_, callResult_triplets_of_valid ((all_valid_iff hwhole).mpr hvalid), ?_, fun k hk => ?_⟩
      · rw [tripletData_length, parseTriplets_length rx hwhole]
      · exact tripletData_getElem? (parseTriplets_getElem?_validAt hwhole hk)
  · constructor
    · intro hinvalid
      rw [parseField_of_invalid hlen hinvalid]; rfl
    · intro hvalid
      rw [parseField_of_valid hlen hvalid]; rfl
  · rw [parseMeasurement_reply hlen]
    obtain ⟨hvalues, hempty⟩ := publishedSample_cases hlen s.cfg.tieRule
    constructor
    · intro hinvalid
      rw [callResult, hempty hinvalid]
    · intro hvalid
      obtain ⟨values, hsample, hvalues⟩ := hvalues hvalid
      exact ⟨values, by rw [callResult, hsample], hvalues⟩

end Sys2Proof.Machine
end

section
/-! Which instructions report a fault (spec/60_exceptions.md R141, R142; spec/30_encoding.md R60): no bytes of an accepted length
make one, and RESERVED.0 is one. -/

namespace Sys2Proof.Machine

/-! ### Operations on accepted operands -/

/-- An instruction that reports no fault leaves `ERR` (60_exceptions.md R141). -/
theorem exec_next_of_not_fault {i : Instr} {s t : State} (hexec : exec i s = .next t) (hreply : ∀ f, t.reply ≠ .fault f) :
    ∃ t, exec i s = .next t ∧ t.err = s.err ∧ ∀ f, t.reply ≠ .fault f :=
  ⟨t, hexec, by rw [exec_err hexec, errAfterReply_of_not_fault hreply], hreply⟩

/-- Settles O23: each of the five operations hands back a result. -/
theorem mismatchIsAResult : Obligations.MismatchIsAResult := by
  intro i s hi
  cases i with
  | crcCompute b0 b1 => exact exec_next_of_not_fault rfl (by simp)
  | crcValidate b0 b1 c => exact exec_next_of_not_fault rfl (by simp)
  | frameParse rx =>
    obtain ⟨hwhole, hbound⟩ := hi
    exact exec_next_of_not_fault (t := parseFrame rx s) rfl (by simp [parseFrame_reply hwhole hbound])
  | fieldParse rx =>
    refine exec_next_of_not_fault (t := parseField rx s) rfl ?_
    rw [parseField_accepts hi]
    exact deliverField_reply_ne_fault _ _
  | measParse rx => exact exec_next_of_not_fault (t := parseMeasurement rx s) rfl (by simp [parseMeasurement_reply hi])
  | _ => exact hi.elim

/-- Settles O24: the eight operations are state functions, and the three without a fault hand back results. -/
theorem operationsAlwaysComplete : Obligations.OperationsAlwaysComplete := by
  intro i s hop
  cases i with
  | crcCompute b0 b1 => exact ⟨_, rfl, fun _ => ⟨rfl, by simp⟩⟩
  | crcValidate b0 b1 c => exact ⟨_, rfl, fun _ => ⟨rfl, by simp⟩⟩
  | floatDecode w => exact ⟨_, rfl, fun _ => ⟨rfl, by simp⟩⟩
  | reserved0 => exact ⟨_, rfl, by simp⟩
  | frameBuild hi lo pay => exact ⟨_, rfl, by simp⟩
  | frameParse rx => exact ⟨_, rfl, by simp⟩
  | fieldParse rx => exact ⟨_, rfl, by simp⟩
  | measParse rx => exact ⟨_, rfl, by simp⟩
  | _ => cases hop

/-! ### The reserved code -/

/-- Every code but 0 has operands that decode to an operation, under every command table. -/
theorem exists_operation_of_code {code : BitVec 3} (h : code ≠ 0) :
    ∃ operands i, isOperation i = true ∧ i ≠ .reserved0 ∧ ∀ table, decode table (.op code operands) = .ok i := by
  have hcases : code = 1 ∨ code = 2 ∨ code = 3 ∨ code = 4 ∨ code = 5 ∨ code = 6 ∨ code = 7 := by bv_omega
  rcases hcases with rfl | rfl | rfl | rfl | rfl | rfl | rfl
  · exact ⟨[0, 0], .crcCompute 0 0, rfl, by simp, fun _ => rfl⟩
  · exact ⟨[0, 0, 0], .crcValidate 0 0 0, rfl, by simp, fun _ => rfl⟩
  · exact ⟨[0, 0], .frameBuild 0 0 none, rfl, by simp, fun _ => rfl⟩
  · exact ⟨[], .frameParse [], rfl, by simp, fun _ => rfl⟩
  · exact ⟨[], .fieldParse [], rfl, by simp, fun _ => rfl⟩
  · exact ⟨[0, 0, 0, 0], .floatDecode (wordOfBytes 0 0 0 0), rfl, by simp, fun _ => rfl⟩
  · exact ⟨[], .measParse [], rfl, by simp, fun _ => rfl⟩

/-- An absent payload is accepted under every bound. -/
theorem badPayloadLength_zero (cfg : Config) : badPayloadLength cfg 0 = false :=
  badPayloadLength_eq_false rfl fun _ _ => Nat.zero_le _

/-- Settles O19: `exists_operation_of_code` for the codes in use; the other clauses run one operation each. -/
theorem reservedCodeRaisesIllegalOp : Obligations.ReservedCodeRaisesIllegalOp := by
  refine ⟨fun _ _ => rfl, fun _ => rfl, fun _ => exists_operation_of_code, fun hi lo s => ?_, fun b0 b1 c s hne => ?_⟩
  · refine ⟨buildFrame hi lo [] s, rfl, ?_⟩
    rw [buildFrame_accepts (badPayloadLength_zero s.cfg)]
    exact ⟨rfl, rfl⟩
  · refine ⟨_, rfl, rfl, ?_⟩
    simp [tripletValid_eq_decide, hne.symm]

end Sys2Proof.Machine
end

section
/-! The host's side of the block: its next event (spec/70_reset_and_hazards.md R161, R170) and its reads of the result registers
(spec/10_state.md R24, spec/45_environment.md R131). -/

namespace Sys2Proof.Machine

/-! ### Steps -/

/-- Settles O3: each request computes. -/
theorem sampleWordsDecode : Obligations.SampleWordsDecode :=
  ⟨rfl, rfl, rfl, rfl, rfl, rfl, rfl, rfl, rfl, rfl, rfl⟩

/-- Settles O4: the three ways `step` branches. -/
theorem stepRunsTheHostsNextEvent : Obligations.StepRunsTheHostsNextEvent := by
  refine ⟨fun s r rest i hp hd => ?_, fun s r rest e hp hd => ?_, fun s hp => ?_⟩
  · simp [step, fetch, hp, hd]
  · simp [step, fetch, hp, hd]
  · simp [step, fetch, hp]

/-- No mark is set at reset, so `ERR` and `MV` alone can be read. -/
theorem readable_reset {r : ResultReg} (herr : r ≠ .err) (hmv : ∀ i, r ≠ .mv i) :
    readable r State.reset.written = false := by
  cases r with
  | err => exact absurd rfl herr
  | mv i => exact absurd rfl (hmv i)
  | _ => rfl

/-- Settles O5: the state is the reset state, in which no mark is set. -/
theorem resetEventLeavesTheResetState : Obligations.ResetEventLeavesTheResetState := by
  intro s rest hp
  refine ⟨_, step_of_reset hp, rfl, reset_meas_absent, fun r herr hmv => ?_, rfl, rfl, rfl, rfl, rfl⟩
  rw [hostRead, resetEvent_written, readable_reset herr hmv]; rfl

/-! ### Reads -/

theorem hostRead_of_readable {r : ResultReg} {s : State} (h : readable r s.written = true) :
    hostRead r s = .next (registerValue r s) :=
  if_pos h

theorem flagValue_eq (b : Bool) : flagValue b = .bits 1 (if b then 1 else 0) := by
  cases b <;> rfl

/-- A flag that a proposition decides. -/
theorem flagValue_of_iff {b : Bool} {p : Prop} [Decidable p] (h : b = true ↔ p) :
    flagValue b = .bits 1 (if p then 1 else 0) := by
  rw [flagValue_eq]
  simp only [h]

theorem floatClassCode_eq (c : FloatClass) :
    (floatClassCode c).toNat = match c with | .fin => 0 | .pinf => 1 | .ninf => 2 | .nan => 3 := by
  cases c <;> rfl

/-- Settles O6: the marks decide the read, and what is read is the register's value. -/
theorem hostReadsOnlyWrittenRegisters : Obligations.HostReadsOnlyWrittenRegisters := by
  intro s
  simp only [← flagValue_eq]
  refine ⟨rfl, fun _ => rfl, rfl, rfl, rfl, ?_, rfl, rfl, rfl, rfl, rfl, rfl, rfl, rfl, rfl, rfl, rfl, rfl⟩
  rw [hostRead, registerValue, floatClassCode_eq]; rfl

end Sys2Proof.Machine
end

section
/-! What a host reads after an operation (spec/10_state.md R11 to R20, R24): the marks of its result registers are set, and they
hold what it delivered. -/

namespace Sys2Proof.Machine

theorem hostRead_v {t : State} {p : Prop} [Decidable p] (hmark : t.written.v = true) (hv : t.v = decide p) :
    hostRead .v t = .next (.bits 1 (if p then 1 else 0)) := by
  rw [hostRead_of_readable (r := .v) hmark]
  exact congrArg Host.Outcome.next (flagValue_of_iff (by rw [hv, decide_eq_true_iff]))

/-! ### FRAME.PARSE and FIELD.PARSE -/

/-- `V` after at least one stride is the validity of the last one. -/
theorem afterStrides_v_eq {rx : List Byte} (h : rx.length % 3 = 0) (hne : rx ≠ []) (s : State) :
    (afterStrides rx s).v = decide (ValidAt rx (rx.length / 3 - 1)) := by
  have hpos : 0 < rx.length := List.length_pos_iff.mpr hne
  rw [afterStrides_v, List.getLast?_eq_getElem?, parseTriplets_length rx h, parseTriplets_getElem?_validAt h (by omega)]
  rfl

theorem afterStrides_mark {rx : List Byte} (h : rx.length % 3 = 0) (hne : rx ≠ []) (s : State) :
    (afterStrides rx s).written.v = true := by
  rw [afterStrides_written_v h]
  simpa using .inr hne

theorem hostRead_after_frameParse {rx : List Byte} (hwhole : rx.length % 3 = 0) (hne : rx ≠ []) {s : State}
    (hbound : Within rx.length s.cfg.maxResponseLen) :
    hostRead .v (parseFrame rx s) = .next (.bits 1 (if ValidAt rx (rx.length / 3 - 1) then 1 else 0)) := by
  rw [parseFrame_accepts (badFrameLength_eq_false hwhole hbound)]
  exact hostRead_v (afterStrides_mark hwhole hne _) (afterStrides_v_eq hwhole hne _)

/-- Delivering a field's result leaves `V` and its mark. -/
theorem deliverField_v (r : FieldResult) (s : State) :
    (deliverField r s).v = s.v ∧ (deliverField r s).written.v = s.written.v := by
  cases r <;> exact ⟨rfl, rfl⟩

theorem failtOf_toNat (v0 v1 : Bool) : (failtOf v0 v1).toNat = (if v0 then 0 else 1) + (if v1 then 0 else 2) := by
  cases v0 <;> cases v1 <;> rfl

/-- `FAILT` says of each triplet of the field whether it is invalid, and is written either way. -/
theorem parseField_failt {rx : List Byte} (hlen : rx.length = 6) (s : State) :
    (parseField rx s).failt = failtOf (decide (ValidAt rx 0)) (decide (ValidAt rx 1)) ∧
    (parseField rx s).written.failt = true := by
  by_cases hvalid : FieldValid rx 0
  · rw [parseField_of_valid hlen hvalid]
    obtain ⟨h0, h1⟩ : ValidAt rx 0 ∧ ValidAt rx 1 := hvalid
    rw [decide_eq_true h0, decide_eq_true h1]
    exact ⟨rfl, rfl⟩
  · rw [parseField_of_invalid hlen hvalid, failtOf_eq_add]
    simp only [decide_eq_true_eq]
    exact ⟨rfl, rfl⟩

theorem hostRead_after_fieldParse {rx : List Byte} (hlen : rx.length = 6) (s : State) :
    (FieldValid rx 0 → hostRead .w (parseField rx s) = .next (.bits 32 (wordAt rx 0).toNat)) ∧
    hostRead .v (parseField rx s) = .next (.bits 1 (if ValidAt rx 1 then 1 else 0)) ∧
    hostRead .failt (parseField rx s) =
      .next (.bits 2 ((if ValidAt rx 0 then 0 else 1) + (if ValidAt rx 1 then 0 else 2))) := by
  have hne : rx ≠ [] := by rintro rfl; cases hlen
  refine ⟨fun hvalid => ?_, ?_, ?_⟩
  · rw [parseField_of_valid hlen hvalid]; rfl
  · have hlast : rx.length / 3 - 1 = 1 := by omega
    have hv := afterStrides_v_eq (by omega) hne { s with idx := 0 }
    rw [hlast] at hv
    rw [parseField_accepts hlen]
    obtain ⟨hsame, hmark⟩ := deliverField_v (fieldResult rx) (afterStrides rx { s with idx := 0 })
    exact hostRead_v (hmark.trans (afterStrides_mark (by omega) hne _)) (hsame.trans hv)
  · obtain ⟨hfailt, hmark⟩ := parseField_failt hlen s
    rw [hostRead_of_readable (r := .failt) hmark, registerValue, hfailt, failtOf_toNat]
    simp only [decide_eq_true_eq]

/-! ### FLOAT.DECODE -/

theorem floatClassCode_decodeFloat (tie : TieRule) (w : Word) :
    (floatClassCode (decodeFloat tie w).cls).toNat =
      if exponentField w ≠ 255 then 0 else if mantissaField w ≠ 0 then 3 else if w.getLsbD 31 then 2 else 1 := by
  by_cases h : exponentField w = 255
  · rw [decodeFloat_special tie h, specialClass_eq, if_neg (not_not.mpr h)]
    split_ifs <;> rfl
  · rw [decodeFloat_finite tie h, if_pos h]; rfl

/-! ### MEAS.PARSE -/

/-- A host read after MEAS.PARSE gives what the measurement delivered holds. -/
theorem hostRead_after_measParse {rx : List Byte} (hlen : rx.length = 60) (s : State) {r : ResultReg}
    (hr : ∀ w : Written, w.meas = true → readable r w = true) :
    hostRead r (parseMeasurement rx s) = .next (registerValue r (parseMeasurement rx s)) := by
  refine hostRead_of_readable (hr _ ?_)
  rw [parseMeasurement_accepts hlen]

section
variable {rx : List Byte} (hlen : rx.length = 60) (s : State)
include hlen

/-- A host read of a flag after MEAS.PARSE, by what the flag says of the fields. -/
theorem hostRead_flag_after_measParse {r : ResultReg} (hr : ∀ w : Written, w.meas = true → readable r w = true)
    {flag : Measurement → Bool} (hvalue : ∀ t, registerValue r t = flagValue (flag t.meas)) {p : Prop} [Decidable p]
    (hflag : flag (measurementOf s.cfg.tieRule rx) = true ↔ p) :
    hostRead r (parseMeasurement rx s) = .next (.bits 1 (if p then 1 else 0)) := by
  rw [hostRead_after_measParse hlen s hr, hvalue, exec_measParse_meas (t := parseMeasurement rx s) hlen rfl,
    flagValue_of_iff hflag]

theorem hostRead_mv_after_measParse (i : Fin 10) :
    hostRead (.mv i) (parseMeasurement rx s) = .next (.entry
      (if flagOfField (parseMeasurement rx s).meas i then some (decodeFloat s.cfg.tieRule (wordAt rx i)) else none)) := by
  rw [hostRead_after_measParse hlen s (fun _ _ => rfl), exec_measParse_meas (t := parseMeasurement rx s) hlen rfl,
    ← measurementOf_mv_eq hlen, registerValue, exec_measParse_meas (t := parseMeasurement rx s) hlen rfl]
end

/-- The fields 4 to 8, counted from the first of them. -/
theorem forall_fin_five_iff (p : Nat → Prop) : (∀ i, 4 ≤ i → i < 9 → p i) ↔ ∀ i : Fin 5, p (4 + i) := by
  constructor
  · exact fun h i => h _ (by omega) (by omega)
  · intro h i hi hi'
    simpa [Nat.add_sub_cancel' hi] using h ⟨i - 4, by omega⟩

/-! ### The obligation -/

/-- Settles O7: the reads after each operation; MEAS.PARSE's reports are read as they stand. -/
theorem hostReadsWhatWasDelivered : Obligations.HostReadsWhatWasDelivered := by
  refine ⟨fun s t b0 b1 hexec => ?crcCompute, fun s t b0 b1 c hexec => ?crcValidate,
    fun s t rx hwhole hne hbound hexec => ?frameParse, fun s t rx hlen hexec => ?fieldParse,
    fun s t w hexec => ?floatDecode, fun s t rx hlen hexec => ?measParse⟩
  case crcCompute =>
    rw [exec_crcCompute] at hexec
    cases hexec
    rfl
  case crcValidate =>
    cases hexec
    exact hostRead_v rfl (tripletValid_eq_decide b0 b1 c)
  case frameParse =>
    cases hexec
    exact hostRead_after_frameParse hwhole hne hbound
  case fieldParse =>
    cases hexec
    exact hostRead_after_fieldParse hlen s
  case floatDecode =>
    cases hexec
    rw [← floatClassCode_decodeFloat s.cfg.tieRule]
    exact ⟨rfl, rfl⟩
  case measParse =>
    cases hexec
    have hread {r : ResultReg} := hostRead_after_measParse hlen s (r := r)
    refine ⟨hostRead_mv_after_measParse hlen s, ?_, ?_, ?_, ?_, hread fun _ => id, hread fun _ => id, hread fun _ => id,
      hread fun _ => id, hread fun _ => id, hread fun _ => id⟩
    · exact hostRead_flag_after_measParse hlen s (fun _ => id) (flag := Measurement.sbvMd) (fun _ => rfl)
        ((sbvMd_iff hlen _).trans (Fin.forall_iff (p := fun i => FieldValid rx i)).symm)
    · exact hostRead_flag_after_measParse hlen s (fun _ => id) (flag := Measurement.sbvPc) (fun _ => rfl)
        ((sbvPc_iff hlen _).trans (forall_fin_five_iff _))
    · exact hostRead_flag_after_measParse hlen s (fun _ => id) (flag := Measurement.sbvPs) (fun _ => rfl) (sbvPs_iff hlen _)
    · exact hostRead_flag_after_measParse hlen s (fun _ => id) (flag := Measurement.complete) (fun _ => rfl)
        ((complete_iff hlen _).trans (Fin.forall_iff (p := fun i => FieldValid rx i)).symm)

end Sys2Proof.Machine
end

section
/-! The command wrappers (spec/30_encoding.md R63; entries 9, 10, 11), outcome by outcome: one lemma for each way a wrapper can end,
from its expansion and from how its calls end, under every command table. -/

namespace Sys2Proof.Machine

/-! ### Transport states -/

/-- The transport after a write that returns. -/
def afterSend (tx : List Byte) (tr : Transport) : Transport := { afterCall tr with sent := tr.sent ++ [tx] }

/-- The transport after a write and a read of `n` bytes that both return. -/
def afterExchange (tx : List Byte) (n : Nat) (tr : Transport) : Transport :=
  { afterCall (afterCall tr) with
    inbox := tr.inbox.drop n
    freeBytes := tr.freeBytes + (n - tr.inbox.length)
    sent := tr.sent ++ [tx] }

theorem callReturns_afterSend (tx : List Byte) (tr : Transport) :
    callReturns (afterSend tx tr) = callReturns (afterCall tr) := rfl

theorem afterCall_afterSend (tx : List Byte) (tr : Transport) :
    afterCall (afterSend tx tr) = { afterCall (afterCall tr) with sent := tr.sent ++ [tx] } :=
  (callReturns_sent (afterCall tr) (tr.sent ++ [tx])).2

theorem readBytes_afterSend (tx : List Byte) (tr : Transport) (n : Nat) :
    readBytes (afterSend tx tr) n = readBytes tr n := by
  obtain ⟨-, hinbox, hfree⟩ := afterCall_frame tr
  simp only [readBytes, afterSend, hinbox, hfree]

theorem afterRead_of_afterSend {s : State} {tx : List Byte} {tr : Transport} (h : s.transport = afterSend tx tr) (n : Nat) :
    afterRead n s = { s with transport := afterExchange tx n tr } := by
  obtain ⟨-, hinbox, hfree⟩ := afterCall_frame tr
  simp only [afterRead, h, afterCall_afterSend]
  simp only [afterSend, afterExchange, hinbox, hfree]

theorem writeHangs_iff (tr : Transport) : writeHangs tr = true ↔ tr.calls.head? = some .hangs := decide_eq_true_iff

theorem buildFrame_transport (hi lo : Byte) (pay : List Byte) (s : State) :
    (buildFrame hi lo pay s).transport = s.transport := by
  rw [buildFrame_frame]

/-- A call that returns does not hang. -/
theorem not_hangs_of_callReturns {tr : Transport} (h : callReturns tr = true) : tr.calls.head? ≠ some .hangs := fun hhangs => by
  rw [not_callReturns_of_hangs hhangs] at h
  cases h

/-! ### How a wrapper ends -/

section
variable {i : Instr} {s : State} {ex : Expansion} (hex : expansion s.cfg.commands i = some ex)
include hex

/-- A frame the assembler refuses ends the wrapper with its fault. -/
theorem exec_refused (hbad : badPayloadLength s.cfg ex.payload.length = true) :
    exec i s = .next (takeFault (.payloadLength ex.payload.length) s) := by
  obtain ⟨parse, -, hrun⟩ := exec_of_expansion hex
  rw [hrun s rfl, runCommand_refuses hbad]

variable (hok : badPayloadLength s.cfg ex.payload.length = false)
include hok

/-- A call that hangs stops the wrapper. -/
theorem exec_hangs
    (hhangs : s.transport.calls.head? = some .hangs ∨
      ex.row.response.getD 0 ≠ 0 ∧ callReturns s.transport = true ∧
        (afterCall s.transport).calls.head? = some .hangs) :
    exec i s = .fault .transportHung := by
  obtain ⟨parse, -, hrun⟩ := exec_of_expansion hex
  have hstop : (writeHangs s.transport || (ex.row.response.getD 0 ≠ 0 && readHangs s.transport)) = true := by
    simpa [writeHangs_iff, readHangs_eq] using hhangs
  have hcases := runCommand_cases ex.row ex.payload parse s
  rw [hok, hstop] at hcases
  simpa [hrun s rfl] using hcases

/-- Where no call hangs, the wrapper exchanges over the state FRAME.BUILD leaves. -/
theorem exec_exchanges (hwrite : s.transport.calls.head? ≠ some .hangs)
    (hread : ex.row.response.getD 0 ≠ 0 → callReturns s.transport = true →
      (afterCall s.transport).calls.head? ≠ some .hangs) :
    ∃ parse : List Byte → State → State, (∀ rx s, exec (ex.parse rx) s = .next (parse rx s)) ∧
      exec i s = .next (exchange (frameOf ex.row.hi ex.row.lo ex.payload) (ex.row.response.getD 0) parse
        (buildFrame ex.row.hi ex.row.lo ex.payload s)) := by
  obtain ⟨parse, hparse, hrun⟩ := exec_of_expansion hex
  have hgo : (writeHangs s.transport || (ex.row.response.getD 0 ≠ 0 && readHangs s.transport)) = false := by
    rw [← Bool.not_eq_true]
    simpa [writeHangs_iff, readHangs_eq, hwrite] using hread
  exact ⟨parse, hparse, by rw [hrun s rfl, runCommand_exchanges hok hgo]⟩

/-- A write that fails is the wrapper's result. -/
theorem exec_write_fails (hwrite : callReturns s.transport = false) (hhang : s.transport.calls.head? ≠ some .hangs) :
    exec i s = .next { buildFrame ex.row.hi ex.row.lo ex.payload s with
      transport := afterCall s.transport, reply := .transportFailure } := by
  obtain ⟨parse, -, hexec⟩ := exec_exchanges hex hok hhang fun _ hret => absurd hret (by simp [hwrite])
  have hb := buildFrame_transport ex.row.hi ex.row.lo ex.payload s
  rw [hexec, exchange, hb, hwrite, Bool.and_false, if_neg Bool.false_ne_true, transportWrite_fails (by simp [hb, hwrite]), hb]

/-- Without a response the wrapper ends with its frame sent. -/
theorem exec_sends (hwrite : callReturns s.transport = true) (hn : ex.row.response.getD 0 = 0) :
    exec i s = .next { buildFrame ex.row.hi ex.row.lo ex.payload s with
      transport := afterSend (frameOf ex.row.hi ex.row.lo ex.payload) s.transport } := by
  obtain ⟨parse, -, hexec⟩ := exec_exchanges hex hok (not_hangs_of_callReturns hwrite) fun hne => absurd hn hne
  have hb := buildFrame_transport ex.row.hi ex.row.lo ex.payload s
  rw [hexec, exchange, hn, if_neg (by simp), transportWrite_returns (by rw [hb, hwrite]), hb]; rfl

variable (hwrite : callReturns s.transport = true) (hn : ex.row.response.getD 0 ≠ 0)
include hwrite hn

/-- After a write that returns, the wrapper is its read. -/
theorem exec_reads_on (hhang : (afterCall s.transport).calls.head? ≠ some .hangs) :
    ∃ parse : List Byte → State → State, (∀ rx s, exec (ex.parse rx) s = .next (parse rx s)) ∧
      exec i s = .next (transportRead (ex.row.response.getD 0) parse
        { buildFrame ex.row.hi ex.row.lo ex.payload s with
          transport := afterSend (frameOf ex.row.hi ex.row.lo ex.payload) s.transport }) := by
  obtain ⟨parse, hparse, hexec⟩ := exec_exchanges hex hok (not_hangs_of_callReturns hwrite) fun _ _ => hhang
  have hb := buildFrame_transport ex.row.hi ex.row.lo ex.payload s
  refine ⟨parse, hparse, ?_⟩
  rw [hexec, exchange, hb, hwrite, if_pos (by simpa using hn), transportWrite_returns (by rw [hb, hwrite]), hb]; rfl

/-- A read that fails is the wrapper's result, after the frame was sent. -/
theorem exec_read_fails (hread : callReturns (afterCall s.transport) = false)
    (hhang : (afterCall s.transport).calls.head? ≠ some .hangs) :
    exec i s = .next { buildFrame ex.row.hi ex.row.lo ex.payload s with
      transport := { afterCall (afterCall s.transport) with
        sent := s.transport.sent ++ [frameOf ex.row.hi ex.row.lo ex.payload] },
      reply := .transportFailure } := by
  obtain ⟨parse, -, hexec⟩ := exec_reads_on hex hok hwrite hn hhang
  rw [hexec, transportRead_fails (by simp [callReturns_afterSend, hread]), afterCall_afterSend]

/-- With a response the wrapper ends as its parse does on the bytes read. -/
theorem exec_reads (hread : callReturns (afterCall s.transport) = true) :
    exec i s = exec (ex.parse (readBytes s.transport (ex.row.response.getD 0)))
      { buildFrame ex.row.hi ex.row.lo ex.payload s with
        transport := afterExchange (frameOf ex.row.hi ex.row.lo ex.payload) (ex.row.response.getD 0) s.transport } := by
  obtain ⟨parse, hparse, hexec⟩ := exec_reads_on hex hok hwrite hn (not_hangs_of_callReturns hread)
  rw [hexec, transportRead_returns (by rw [callReturns_afterSend, hread]), afterRead_of_afterSend rfl, hparse,
    readBytes_afterSend]

/-- The parse of a response is an operation of the block, and so ends in a next state. -/
theorem exec_reads_next (hread : callReturns (afterCall s.transport) = true) :
    ∃ t, exec i s = .next t ∧ exec (ex.parse (readBytes s.transport (ex.row.response.getD 0)))
      { buildFrame ex.row.hi ex.row.lo ex.payload s with
        transport := afterExchange (frameOf ex.row.hi ex.row.lo ex.payload) (ex.row.response.getD 0) s.transport } =
          .next t := by
  obtain ⟨t, ht, -⟩ := operationsAlwaysComplete (ex.parse (readBytes s.transport (ex.row.response.getD 0))) _
    (expansion_parse_isOperation hex _)
  exact ⟨t, (exec_reads hex hok hwrite hn hread).trans ht, ht⟩
end

/-! ### The obligation -/

/-- Settles O38: the state `b` is FRAME.BUILD's, and each clause is one of the outcomes above. -/
theorem wrappersRunTheirExpansion : Obligations.WrappersRunTheirExpansion := by
  intro s b i e hex hbuild
  cases hbuild
  cases hbad : badPayloadLength s.cfg e.payload.length with
  | true =>
    have hb : buildFrame e.row.hi e.row.lo e.payload s = takeFault (.payloadLength e.payload.length) s :=
      buildFrame_refuses hbad _ _
    refine ⟨fun _ _ => (exec_refused hex hbad).trans (congrArg _ hb.symm), fun tx htx => ?_⟩
    rw [Option.getD_some, hb] at htx
    cases htx
  | false =>
    have hb : (buildFrame e.row.hi e.row.lo e.payload s).reply = .frame (frameOf e.row.hi e.row.lo e.payload) := by
      rw [buildFrame_accepts hbad]
    refine ⟨fun f hf => ?_, fun tx htx => ?_⟩
    · rw [Option.getD_some, hb] at hf
      cases hf
    · rw [Option.getD_some, hb] at htx
      cases htx
      exact ⟨fun hn hwrite => exec_sends hex hbad hwrite hn,
        fun hn hwrite hread => exec_reads_next hex hbad hwrite hn hread,
        fun hwrite hhang => exec_write_fails hex hbad hwrite hhang,
        fun hn hwrite hread hhang => exec_read_fails hex hbad hwrite hn hread hhang,
        fun hhang => exec_hangs hex hbad (.inl hhang), fun hn hwrite hhang => exec_hangs hex hbad (.inr ⟨hn, hwrite, hhang⟩)⟩

end Sys2Proof.Machine
end

section
/-! The command wrappers under the command table as printed (spec/30_encoding.md R58, R63): the frames they send, what becomes of a
call that does not return, and what they read. -/

namespace Sys2Proof.Machine

/-! ### Frames of short payloads -/

theorem buildFrame_empty (hi lo : Byte) (s : State) :
    buildFrame hi lo [] s = { s with idx := 0, reply := .frame [hi, lo] } :=
  buildFrame_accepts (badPayloadLength_zero s.cfg) hi lo

theorem buildFrame_pair {s : State} (h : Within 2 s.cfg.maxPayloadLen) (hi lo a b : Byte) :
    buildFrame hi lo [a, b] s =
      { s with d0 := a, d1 := b, crc := refChecksum a b, idx := 2, reply := .frame [hi, lo, a, b, refChecksum a b] } := by
  rw [buildFrame_accepts (badPayloadLength_eq_false (len := 2) rfl h), ← crc8_eq_refChecksum]; rfl

theorem buildFrame_quad {s : State} (h : Within 4 s.cfg.maxPayloadLen) (hi lo a b c d : Byte) :
    buildFrame hi lo [a, b, c, d] s =
      { s with d0 := c, d1 := d, crc := refChecksum c d, idx := 4,
               reply := .frame [hi, lo, a, b, refChecksum a b, c, d, refChecksum c d] } := by
  rw [buildFrame_accepts (badPayloadLength_eq_false (len := 4) rfl h), ← crc8_eq_refChecksum, ← crc8_eq_refChecksum]; rfl

/-! ### Calls placed in the input -/

section
variable {tr : Transport} {c : CallOutcome} {cs : List CallOutcome} (h : tr.calls = c :: cs)
include h

theorem afterCall_of_calls : afterCall tr = { tr with calls := cs } := (callReturns_cons tr c cs h).2

theorem callReturns_of_calls : callReturns tr = decide (c = .returns) := (callReturns_cons tr c cs h).1

theorem afterSend_of_calls (tx : List Byte) : afterSend tx tr = { tr with calls := cs, sent := tr.sent ++ [tx] } := by
  rw [afterSend, afterCall_of_calls h]
end

theorem afterExchange_of_calls {tr : Transport} {c d : CallOutcome} {cs : List CallOutcome} (h : tr.calls = c :: d :: cs)
    (tx : List Byte) (n : Nat) :
    afterExchange tx n tr =
      { tr with calls := cs, inbox := tr.inbox.drop n, freeBytes := tr.freeBytes + (n - tr.inbox.length),
                sent := tr.sent ++ [tx] } := by
  rw [afterExchange, afterCall_of_calls h]; rfl

/-! ### Outcomes, from the state and the frame that FRAME.BUILD leaves -/

theorem buildFrame_accepted {hi lo : Byte} {pay tx : List Byte} {s : State}
    (h : (buildFrame hi lo pay s).reply = .frame tx) :
    badPayloadLength s.cfg pay.length = false ∧ frameOf hi lo pay = tx := by
  cases hbad : badPayloadLength s.cfg pay.length with
  | true => rw [buildFrame_refuses hbad] at h; cases h
  | false => exact ⟨rfl, (buildFrame_frame_reply h).2.symm⟩

section
variable {i : Instr} {s b : State} {ex : Expansion} {tx : List Byte} {cs : List CallOutcome}
  (hex : expansion s.cfg.commands i = some ex) (hb : buildFrame ex.row.hi ex.row.lo ex.payload s = b)
  (htx : b.reply = .frame tx)
include hex hb htx

theorem exec_sends_of_calls (hcalls : s.transport.calls = .returns :: cs) (hn : ex.row.response.getD 0 = 0) :
    exec i s = .next { b with
      transport := { s.transport with calls := cs, sent := s.transport.sent ++ [tx] } } := by
  obtain ⟨hok, hframe⟩ := buildFrame_accepted (hb ▸ htx)
  rw [exec_sends hex hok (callReturns_of_calls hcalls) hn, afterSend_of_calls hcalls, hb, hframe]

theorem exec_write_fails_of_calls (hcalls : s.transport.calls = .fails :: cs) :
    exec i s = .next { b with reply := .transportFailure, transport := { s.transport with calls := cs } } := by
  obtain ⟨hok, -⟩ := buildFrame_accepted (hb ▸ htx)
  rw [exec_write_fails hex hok (callReturns_of_calls hcalls) (by simp [hcalls]), afterCall_of_calls hcalls, hb]

theorem exec_write_hangs_of_calls (hcalls : s.transport.calls = .hangs :: cs) : exec i s = .fault .transportHung := by
  obtain ⟨hok, -⟩ := buildFrame_accepted (hb ▸ htx)
  exact exec_hangs hex hok (.inl (by rw [hcalls]; rfl))

variable (hn : ex.row.response.getD 0 ≠ 0)
include hn

theorem exec_read_fails_of_calls (hcalls : s.transport.calls = .returns :: .fails :: cs) :
    exec i s = .next { b with
      reply := .transportFailure,
      transport := { s.transport with calls := cs, sent := s.transport.sent ++ [tx] } } := by
  obtain ⟨hok, hframe⟩ := buildFrame_accepted (hb ▸ htx)
  have hafter := afterCall_of_calls hcalls
  rw [exec_read_fails hex hok (callReturns_of_calls hcalls) hn (by rw [hafter]; rfl) (by simp [hafter]), hafter, hb, hframe]
  rfl

theorem exec_read_hangs_of_calls (hcalls : s.transport.calls = .returns :: .hangs :: cs) :
    exec i s = .fault .transportHung := by
  obtain ⟨hok, -⟩ := buildFrame_accepted (hb ▸ htx)
  exact exec_hangs hex hok (.inr ⟨hn, callReturns_of_calls hcalls, by rw [afterCall_of_calls hcalls]; rfl⟩)

theorem exec_reads_of_calls (hcalls : s.transport.calls = .returns :: .returns :: cs) :
    exec i s = exec (ex.parse (readBytes s.transport (ex.row.response.getD 0)))
      { b with transport := { s.transport with
          calls := cs, inbox := s.transport.inbox.drop (ex.row.response.getD 0),
          freeBytes := s.transport.freeBytes + (ex.row.response.getD 0 - s.transport.inbox.length),
          sent := s.transport.sent ++ [tx] } } := by
  obtain ⟨hok, hframe⟩ := buildFrame_accepted (hb ▸ htx)
  rw [exec_reads hex hok (callReturns_of_calls hcalls) hn (by rw [afterCall_of_calls hcalls]; rfl),
    afterExchange_of_calls hcalls, hb, hframe]
end

/-! ### The printed table -/

section
variable {s : State} (hcmds : s.cfg.commands = CommandTable.default)
include hcmds

theorem printed_expansion {i : Instr} {ex : Expansion} (h : expansion CommandTable.default i = some ex) :
    expansion s.cfg.commands i = some ex := by
  rw [hcmds, h]

/-- What can be checked of the printed expansions of listed wrappers holds of each of them. -/
theorem printed_expansion_of_all {α : Type} {l : List α} {f : α → Instr} {p : α → Expansion → Bool}
    {a : α} (ha : a ∈ l) (hall : (l.all fun a => (expansion CommandTable.default (f a)).any (p a)) = true) :
    ∃ ex, expansion s.cfg.commands (f a) = some ex ∧ p a ex = true := by
  rw [hcmds]
  exact (Option.any_eq_true _ _).mp (List.all_eq_true.mp hall a ha)
end

theorem buildFrame_of_empty {pay : List Byte} (h : pay = []) (hi lo : Byte) (s : State) :
    buildFrame hi lo pay s = { s with idx := 0, reply := .frame [hi, lo] } := by
  rw [h, buildFrame_empty]

/-- The start command's frame, its checksum computed. -/
theorem buildFrame_start {s : State} (h : Within 2 s.cfg.maxPayloadLen) :
    buildFrame 0xD0 0x10 [0x03, 0x00] s =
      { s with d0 := 0x03, d1 := 0x00, crc := 0xAC, idx := 2, reply := .frame [0xD0, 0x10, 0x03, 0x00, 0xAC] } := by
  rw [buildFrame_pair h, show refChecksum 0x03 0x00 = 0xAC by decide]

/-- The frame of the interval in seconds. -/
theorem buildFrame_interval {s : State} (h : Within 4 s.cfg.maxPayloadLen) (s3 s2 s1 s0 : Byte) :
    buildFrame 0x80 0x04 (bytesOfWord (s3 ++ s2 ++ s1 ++ s0)) s =
      { s with d0 := s1, d1 := s0, crc := refChecksum s1 s0, idx := 4,
               reply := .frame [0x80, 0x04, s3, s2, refChecksum s3 s2, s1, s0, refChecksum s1 s0] } := by
  rw [bytesOfWord_append, buildFrame_quad h]

/-! ### Frames sent -/

/-- Settles O39: six rows of a code alone, and the start command's two payload bytes. -/
theorem commandsWithoutResponseSendTheirFrame : Obligations.CommandsWithoutResponseSendTheirFrame := by
  intro s cs hcmds hcalls
  have hsends (i : Instr) {ex : Expansion} (h : expansion CommandTable.default i = some ex) (hpay : ex.payload = []) :=
    exec_sends_of_calls (printed_expansion hcmds h) (buildFrame_of_empty hpay _ _ s) rfl hcalls
  exact ⟨hsends .cmdStopMeasurement rfl rfl rfl, hsends .cmdSleep rfl rfl rfl, hsends .cmdWakeup rfl rfl rfl,
    hsends .cmdStartFanCleaning rfl rfl rfl, hsends .cmdClearStatus rfl rfl rfl, hsends .cmdReset rfl rfl rfl,
    fun hbound => exec_sends_of_calls (printed_expansion hcmds (i := .cmdStartMeasurement) rfl) (buildFrame_start hbound)
      rfl hcalls rfl⟩

/-- Settles O40: the interval's frame, sent by a write that returns. -/
theorem writeAutocleanSendsTheInterval : Obligations.WriteAutocleanSendsTheInterval := by
  intro s cs s3 s2 s1 s0 hcmds hcalls hbound tx
  exact exec_sends_of_calls (printed_expansion hcmds (i := .cmdWriteAutoclean (s3 ++ s2 ++ s1 ++ s0)) rfl)
    (buildFrame_interval hbound s3 s2 s1 s0) rfl hcalls rfl

/-- Two checksummed data blocks are a field of both triplets valid, and its word is theirs (42_frame_parse.md R87). -/
theorem parseField_of_blocks (b0 b1 b2 b3 : Byte) (s : State) :
    (parseField [b0, b1, refChecksum b0 b1, b2, b3, refChecksum b2 b3] s).w = b0 ++ b1 ++ b2 ++ b3 ∧
    (parseField [b0, b1, refChecksum b0 b1, b2, b3, refChecksum b2 b3] s).reply = .word (b0 ++ b1 ++ b2 ++ b3) := by
  rw [parseField_of_valid rfl ⟨rfl, rfl⟩]
  exact ⟨rfl, rfl⟩

/-- A word is its four bytes. -/
theorem exists_bytes_of_word (w : Word) : ∃ s3 s2 s1 s0 : Byte, w = s3 ++ s2 ++ s1 ++ s0 :=
  ⟨_, _, _, _, by rw [← wordOfBytes_eq_append, wordOfBytes_bytesOfWord]⟩

/-- Settles O41: the write sends the word of the interval in two blocks, and FIELD.PARSE reads that word back. -/
theorem autocleanIntervalRoundTrip : Obligations.AutocleanIntervalRoundTrip := by
  intro days s s' cs hdays hcmds hcalls hbound
  obtain ⟨s3, s2, s1, s0, hword⟩ := exists_bytes_of_word (BitVec.ofNat 32 (intervalSeconds days))
  obtain ⟨hw, hreply⟩ := parseField_of_blocks s3 s2 s1 s0 s'
  rw [hword]
  refine ⟨_, _, _, writeAutocleanSendsTheInterval s cs s3 s2 s1 s0 hcmds hcalls hbound, rfl, rfl, ?_, ?_⟩
  · have hfits : days * 86400 < 2 ^ 32 := by omega
    exact (congrArg BitVec.toNat (hw.trans hword.symm)).trans ((BitVec.toNat_ofNat _ _).trans (Nat.mod_eq_of_lt hfits))
  · exact (congrArg callResult hreply).trans (congrArg CallResult.word hw.symm)

/-! ### Calls that do not return -/

/-- Settles O43: the frames are a code alone for thirteen wrappers, and the two with a payload. -/
theorem transportFailurePropagates : Obligations.TransportFailurePropagates := by
  intro s cs hcmds
  have hstart := printed_expansion hcmds (i := .cmdStartMeasurement) rfl
  have hwrite (w : Word) := printed_expansion hcmds (i := .cmdWriteAutoclean w) rfl
  refine ⟨fun hcalls => ?writeFails, fun hcalls => ?readFails, fun hcalls => ?writeHangs, fun hcalls => ?readHangs⟩
  case writeFails =>
    refine ⟨fun i hi => ?_, fun hbound => exec_write_fails_of_calls hstart (buildFrame_start hbound) rfl hcalls,
      fun s3 s2 s1 s0 hbound => exec_write_fails_of_calls (hwrite _) (buildFrame_interval hbound s3 s2 s1 s0) rfl hcalls⟩
    obtain ⟨ex, hex, hpay⟩ := printed_expansion_of_all hcmds (f := id) (p := fun _ ex => ex.payload.isEmpty) hi rfl
    exact exec_write_fails_of_calls hex (buildFrame_of_empty (List.isEmpty_iff.mp hpay) _ _ s) rfl hcalls
  case readFails =>
    intro q hq
    obtain ⟨ex, hex, hrow⟩ := printed_expansion_of_all hcmds (f := Prod.fst) (p := fun q ex =>
      decide (ex.payload = [] ∧ ex.row.response.getD 0 ≠ 0 ∧ [ex.row.hi, ex.row.lo] = q.2)) hq rfl
    obtain ⟨hpay, hn, hcode⟩ := of_decide_eq_true hrow
    rw [← hcode]
    exact exec_read_fails_of_calls hex (buildFrame_of_empty hpay _ _ s) rfl hn hcalls
  case writeHangs =>
    refine ⟨fun i hi => ?_, fun hbound => exec_write_hangs_of_calls hstart (buildFrame_start hbound) rfl hcalls,
      fun seconds hbound => ?_⟩
    · obtain ⟨ex, hex, hpay⟩ := printed_expansion_of_all hcmds (f := id) (p := fun _ ex => ex.payload.isEmpty) hi rfl
      exact exec_write_hangs_of_calls hex (buildFrame_of_empty (List.isEmpty_iff.mp hpay) _ _ s) rfl hcalls
    · obtain ⟨s3, s2, s1, s0, rfl⟩ := exists_bytes_of_word seconds
      exact exec_write_hangs_of_calls (hwrite _) (buildFrame_interval hbound s3 s2 s1 s0) rfl hcalls
  case readHangs =>
    intro i hi
    obtain ⟨ex, hex, hrow⟩ := printed_expansion_of_all hcmds (f := id) (p := fun _ ex =>
      decide (ex.payload = [] ∧ ex.row.response.getD 0 ≠ 0)) hi rfl
    obtain ⟨hpay, hn⟩ := of_decide_eq_true hrow
    exact exec_read_hangs_of_calls hex (buildFrame_of_empty hpay _ _ s) rfl hn hcalls

/-! ### Reads -/

/-- Settles O46: the inbox's bytes stand first, and free ones make up the length. -/
theorem readsDeliverTheBytesAskedFor : Obligations.ReadsDeliverTheBytesAskedFor := by
  intro t n
  constructor
  · simp only [readBytes, List.length_append, List.length_take, freeBytesFrom_length]
    omega
  · intro k hk hinbox
    rw [readBytes, List.getElem?_append_left (by rw [List.length_take]; omega), List.getElem?_take_of_lt hk]

/-- The state in which a code alone was sent and `n` bytes were read. -/
def askedState (s : State) (cs : List CallOutcome) (hi lo : Byte) (n : Nat) : State :=
  { s with idx := 0, reply := .frame [hi, lo],
           transport := { s.transport with
             calls := cs, inbox := s.transport.inbox.drop n,
             freeBytes := s.transport.freeBytes + (n - s.transport.inbox.length),
             sent := s.transport.sent ++ [[hi, lo]] } }

section
variable {s : State} (hcmds : s.cfg.commands = CommandTable.default) {cs : List CallOutcome}
  (hcalls : s.transport.calls = .returns :: .returns :: cs)
include hcmds hcalls

/-- A query under the printed table, with calls that return, is its parse on the bytes read. -/
theorem exec_query {i : Instr} {hi lo : Byte} {n : Nat} {parse : List Byte → Instr}
    (hex : expansion CommandTable.default i = some ⟨⟨hi, lo, [], some n⟩, [], parse⟩) (hn : n ≠ 0) :
    exec i s = exec (parse (readBytes s.transport n)) (askedState s cs hi lo n) :=
  exec_reads_of_calls (printed_expansion hcmds hex) (buildFrame_empty hi lo s) rfl hn hcalls

/-- A query of whole strides within the bound delivers an entry per stride. -/
theorem exec_frame_query {i : Instr} {hi lo : Byte} {n : Nat}
    (hex : expansion CommandTable.default i = some ⟨⟨hi, lo, [], some n⟩, [], .frameParse⟩) (hn : n ≠ 0)
    (hwhole : n % 3 = 0) (hbound : Within n s.cfg.maxResponseLen) :
    ∃ t tr, exec i s = .next t ∧ exec (.frameParse (readBytes s.transport n)) (askedState s cs hi lo n) = .next t ∧
      t.reply = .triplets tr ∧ tr.length = n / 3 := by
  obtain ⟨hlen, -⟩ := readsDeliverTheBytesAskedFor s.transport n
  refine ⟨_, _, exec_query hcmds hcalls hex hn, rfl, parseFrame_reply (by omega) (by rw [hlen]; exact hbound), ?_⟩
  rw [parseTriplets_length _ (by omega), hlen]

/-- A query of one field delivers its word or its mismatch. -/
theorem exec_field_query {i : Instr} {hi lo : Byte}
    (hex : expansion CommandTable.default i = some ⟨⟨hi, lo, [], some 6⟩, [], .fieldParse⟩) :
    ∃ t, exec i s = .next t ∧ exec (.fieldParse (readBytes s.transport 6)) (askedState s cs hi lo 6) = .next t ∧
      (t.reply = .word t.w ∨ t.reply = .mismatch t.failt) := by
  obtain ⟨hlen, -⟩ := readsDeliverTheBytesAskedFor s.transport 6
  refine ⟨_, exec_query hcmds hcalls hex (by decide), rfl, ?_⟩
  rw [parseField_accepts hlen]
  cases fieldResult (readBytes s.transport 6) with
  | word w => exact .inl rfl
  | mismatch t => exact .inr rfl

theorem exec_measurement_query {i : Instr} {hi lo : Byte}
    (hex : expansion CommandTable.default i = some ⟨⟨hi, lo, [], some 60⟩, [], .measParse⟩) :
    ∃ t, exec i s = .next t ∧ exec (.measParse (readBytes s.transport 60)) (askedState s cs hi lo 60) = .next t ∧
      t.reply = .measurement t.meas := by
  obtain ⟨hlen, -⟩ := readsDeliverTheBytesAskedFor s.transport 60
  refine ⟨_, exec_query hcmds hcalls hex (by decide), rfl, ?_⟩
  rw [parseMeasurement_accepts hlen]

/-- A response above the bound faults after it was read. -/
theorem exec_frame_query_refused {i : Instr} {hi lo : Byte} {n : Nat}
    (hex : expansion CommandTable.default i = some ⟨⟨hi, lo, [], some n⟩, [], .frameParse⟩) (hn : n ≠ 0)
    (hbound : ¬ Within n s.cfg.maxResponseLen) :
    exec i s = .next (takeFault (.frameLength n) (askedState s cs hi lo n)) := by
  obtain ⟨hlen, -⟩ := readsDeliverTheBytesAskedFor s.transport n
  have hbad : badFrameLength (askedState s cs hi lo n).cfg (readBytes s.transport n).length = true :=
    (badFrameLength_iff _ _).mpr (.inr (by rw [hlen]; exact hbound))
  refine (exec_query hcmds hcalls hex hn).trans (congrArg Host.Outcome.next ?_)
  rw [parseFrame_refuses hbad, hlen]
end

/-- Settles O42: each query by the parse its row ends in. -/
theorem queriesParseTheirResponse : Obligations.QueriesParseTheirResponse := by
  intro s cs hcmds hcalls rx asked
  exact ⟨exec_frame_query hcmds hcalls (i := .cmdReadDataReady) rfl (by decide) rfl,
    exec_frame_query hcmds hcalls (i := .cmdFirmwareVersion) rfl (by decide) rfl,
    exec_frame_query hcmds hcalls (i := .cmdProductType) rfl (by decide) rfl,
    exec_frame_query hcmds hcalls (i := .cmdSerialNumber) rfl (by decide) rfl,
    exec_field_query hcmds hcalls (i := .cmdReadAutoclean) rfl, exec_field_query hcmds hcalls (i := .cmdReadStatus) rfl,
    exec_measurement_query hcmds hcalls (i := .cmdReadMeasurement) rfl⟩

/-- Settles O44: the assembler's refusals, and the four queries that FRAME.PARSE reads. -/
theorem refusedFramesAreNotSent : Obligations.RefusedFramesAreNotSent := by
  refine ⟨fun s hcmds hbound => ?_, fun s seconds hbound => ?_, fun s cs hcmds hcalls q hq hbound => ?_⟩
  · exact exec_refused (printed_expansion hcmds (i := .cmdStartMeasurement) rfl)
      ((badPayloadLength_iff s.cfg 2).mpr (.inr hbound))
  · exact exec_refused (i := .cmdWriteAutoclean seconds) rfl ((badPayloadLength_iff s.cfg 4).mpr (.inr hbound))
  · simp only [List.mem_cons, List.not_mem_nil, or_false] at hq
    rcases hq with rfl | rfl | rfl | rfl
    · exact exec_frame_query_refused hcmds hcalls (i := .cmdReadDataReady) rfl (by decide) hbound
    · exact exec_frame_query_refused hcmds hcalls (i := .cmdProductType) rfl (by decide) hbound
    · exact exec_frame_query_refused hcmds hcalls (i := .cmdSerialNumber) rfl (by decide) hbound
    · exact exec_frame_query_refused hcmds hcalls (i := .cmdFirmwareVersion) rfl (by decide) hbound

end Sys2Proof.Machine
end

section
/-! What every instruction leaves alone (spec/10_state.md R17, spec/45_environment.md R131), and when a wrapper ends
(spec/45_environment.md R110, R128). -/

namespace Sys2Proof.Machine

/-! ### Ending -/

/-- The two ways a call of a wrapper hangs are among the next two outcomes of the input. -/
theorem not_hangs_of_not_mem {tr : Transport} (h : CallOutcome.hangs ∉ tr.calls.take 2) :
    tr.calls.head? ≠ some .hangs ∧ (callReturns tr = true → (afterCall tr).calls.head? ≠ some .hangs) := by
  rcases tr with ⟨_ | ⟨c, _ | ⟨d, cs⟩⟩, _, _, _, _⟩
  · exact ⟨by simp, fun _ => by simp [afterCall]⟩
  · exact ⟨fun hc => h (by simp [Option.some.inj hc]), fun _ => by simp [afterCall]⟩
  · exact ⟨fun hc => h (by simp [Option.some.inj hc]), fun _ hd => h (by simp [Option.some.inj hd])⟩

/-- Settles O45: a frame that is refused ends the wrapper, and otherwise it exchanges. -/
theorem wrappersEndUnlessTheTransportHangs : Obligations.WrappersEndUnlessTheTransportHangs := by
  intro i s hop hcalls
  obtain ⟨ex, hex⟩ := exists_expansion hop s.cfg.commands
  obtain ⟨hwrite, hread⟩ := not_hangs_of_not_mem hcalls
  cases hbad : badPayloadLength s.cfg ex.payload.length with
  | true => exact ⟨_, exec_refused hex hbad⟩
  | false =>
    obtain ⟨parse, -, hexec⟩ := exec_exchanges hex hbad hwrite fun _ => hread
    exact ⟨_, hexec⟩

/-! ### Operations and what is outside the block -/

/-- The model arguments, the host's list and the transport are as they were. -/
def SameOutside (s t : State) : Prop := t.cfg = s.cfg ∧ t.pending = s.pending ∧ t.transport = s.transport

theorem SameOutside.rfl {s : State} : SameOutside s s := ⟨Eq.refl _, Eq.refl _, Eq.refl _⟩

theorem buildFrame_sameOutside (hi lo : Byte) (pay : List Byte) (s : State) : SameOutside s (buildFrame hi lo pay s) := by
  rw [buildFrame_frame]; exact .rfl

theorem afterStrides_sameOutside (rx : List Byte) (s : State) : SameOutside s (afterStrides rx s) := by
  rw [afterStrides_frame]; exact .rfl

theorem parseFrame_sameOutside (rx : List Byte) (s : State) : SameOutside s (parseFrame rx s) := by
  cases hbad : badFrameLength s.cfg rx.length with
  | true => rw [parseFrame_refuses hbad]; exact .rfl
  | false => rw [parseFrame_accepts hbad]; exact afterStrides_sameOutside rx { s with idx := 0 }

theorem parseField_sameOutside (rx : List Byte) (s : State) : SameOutside s (parseField rx s) := by
  by_cases h : rx.length = 6
  · rw [parseField_accepts h]
    have hstrides := afterStrides_sameOutside rx { s with idx := 0 }
    cases fieldResult rx <;> exact hstrides
  · rw [parseField_refuses h]; exact .rfl

theorem parseMeasurement_sameOutside (rx : List Byte) (s : State) : SameOutside s (parseMeasurement rx s) := by
  rw [parseMeasurement_frame]; exact .rfl

theorem exec_operation_sameOutside {i : Instr} {s t : State} (hop : isOperation i = true) (h : exec i s = .next t) :
    SameOutside s t := by
  cases i with
  | reserved0 => cases h; exact .rfl
  | crcCompute b0 b1 => cases h; exact .rfl
  | crcValidate b0 b1 c => cases h; exact .rfl
  | frameBuild hi lo pay => cases h; exact buildFrame_sameOutside hi lo _ s
  | frameParse rx => cases h; exact parseFrame_sameOutside rx s
  | fieldParse rx => cases h; exact parseField_sameOutside rx s
  | floatDecode w => cases h; exact .rfl
  | measParse rx => cases h; exact parseMeasurement_sameOutside rx s
  | _ => cases hop

/-! ### Wrappers and what is outside the block -/

/-- The model arguments and the host's list are as they were, and `frames` are what was sent since. -/
def Sent (frames : List (List Byte)) (s t : State) : Prop :=
  t.cfg = s.cfg ∧ t.pending = s.pending ∧ t.transport.sent = s.transport.sent ++ frames

theorem SameOutside.sent {s t : State} (h : SameOutside s t) : Sent [] s t := by
  obtain ⟨hcfg, hpending, htransport⟩ := h
  exact ⟨hcfg, hpending, by rw [htransport, List.append_nil]⟩

theorem Sent.trans {fs gs : List (List Byte)} {s t u : State} (h : Sent fs s t) (h' : Sent gs t u) :
    Sent (fs ++ gs) s u := by
  obtain ⟨hcfg, hpending, hsent⟩ := h
  obtain ⟨hcfg', hpending', hsent'⟩ := h'
  exact ⟨hcfg'.trans hcfg, hpending'.trans hpending, by rw [hsent', hsent, List.append_assoc]⟩

/-- A call that fails sends nothing. -/
theorem sent_of_transportFailure (s : State) :
    Sent [] s { s with transport := afterCall s.transport, reply := .transportFailure } :=
  ⟨rfl, rfl, by rw [(afterCall_frame s.transport).1, List.append_nil]⟩

theorem afterRead_sent (n : Nat) (s : State) : Sent [] s (afterRead n s) :=
  ⟨rfl, rfl, ((afterCall_frame s.transport).1).trans (List.append_nil _).symm⟩

theorem transportWrite_sent (tx : List Byte) (s : State) :
    ∃ frames, frames.length ≤ 1 ∧ Sent frames s (transportWrite tx s) := by
  rcases transportWrite_cases tx s with ⟨-, hw⟩ | ⟨-, hw⟩ <;> rw [hw]
  · exact ⟨[tx], le_refl 1, rfl, rfl, rfl⟩
  · exact ⟨[], Nat.zero_le 1, sent_of_transportFailure s⟩

section
variable {parse : List Byte → State → State} (hparse : ∀ rx s, SameOutside s (parse rx s))
include hparse

theorem transportRead_sent (n : Nat) (s : State) : Sent [] s (transportRead n parse s) := by
  rcases transportRead_cases n parse s with ⟨-, hr⟩ | ⟨-, hr⟩ <;> rw [hr]
  · exact (afterRead_sent n s).trans (hparse (readBytes s.transport n) (afterRead n s)).sent
  · exact sent_of_transportFailure s

theorem exchange_sent (tx : List Byte) (n : Nat) (s : State) :
    ∃ frames, frames.length ≤ 1 ∧ Sent frames s (exchange tx n parse s) := by
  obtain ⟨frames, hone, hsent⟩ := transportWrite_sent tx s
  rcases exchange_cases tx n parse s with ⟨-, -, he⟩ | ⟨-, -, he⟩ | ⟨-, he⟩ <;> rw [he]
  · exact ⟨frames, hone, hsent⟩
  · exact ⟨frames ++ [], by simpa using hone, hsent.trans (transportRead_sent hparse n _)⟩
  · exact ⟨frames, hone, hsent⟩

theorem runCommand_sent {row : CommandRow} {pay : List Byte} {s t : State} (h : runCommand row pay parse s = .next t) :
    ∃ frames, frames.length ≤ 1 ∧ Sent frames s t := by
  rcases runCommand_cases row pay parse s with ⟨-, hr⟩ | ⟨-, -, hr⟩ | ⟨-, -, hr⟩ <;> rw [hr] at h <;> cases h
  · exact ⟨[], Nat.zero_le 1, SameOutside.sent .rfl⟩
  · obtain ⟨frames, hone, hsent⟩ := exchange_sent hparse (frameOf row.hi row.lo pay) (row.response.getD 0)
      (buildFrame row.hi row.lo pay s)
    exact ⟨frames, hone, (buildFrame_sameOutside row.hi row.lo pay s).sent.trans hsent⟩
end

/-- Over any instruction at most one frame is sent. -/
theorem exec_sent {i : Instr} {s t : State} (h : exec i s = .next t) : ∃ frames, frames.length ≤ 1 ∧ Sent frames s t := by
  cases hop : isOperation i with
  | true => exact ⟨[], Nat.zero_le 1, (exec_operation_sameOutside hop h).sent⟩
  | false =>
    obtain ⟨ex, hex⟩ := exists_expansion hop s.cfg.commands
    obtain ⟨parse, hparse, hrun⟩ := exec_of_expansion hex
    rw [hrun s rfl] at h
    exact runCommand_sent
      (fun rx s => exec_operation_sameOutside (expansion_parse_isOperation hex rx) (hparse rx s)) h

/-- Settles O52: `exec_sent`, and for the operations `exec_operation_sameOutside`. -/
theorem operationsStayInsideTheBlock : Obligations.OperationsStayInsideTheBlock := by
  intro i s t hexec
  obtain ⟨frames, hone, hcfg, hpending, hsent⟩ := exec_sent hexec
  refine ⟨hcfg, hpending, fun hop => (exec_operation_sameOutside hop hexec).2.2, ?_⟩
  match frames, hone with
  | [], _ => exact .inl (by rw [hsent, List.append_nil])
  | [tx], _ => exact .inr ⟨tx, hsent⟩

end Sys2Proof.Machine
end

section
/-! The handoff buffer (spec/45_environment.md R120, R123), a function of the host: publishing keeps the last entries in order. -/

namespace Sys2Proof.Machine

/-- Publishing into a buffer of the last entries leaves a buffer of the last entries. -/
theorem publish_drop {α : Type} (xs : List α) (x : α) :
    publish (xs.drop (xs.length - handoffDepth)) x = (xs ++ [x]).drop ((xs ++ [x]).length - handoffDepth) := by
  rw [publish, List.length_drop, List.length_append, List.length_singleton]
  by_cases h : xs.length < handoffDepth
  · rw [if_pos (by omega), Nat.sub_eq_zero_of_le h.le, Nat.sub_eq_zero_of_le h]; rfl
  · have hdepth : 0 < handoffDepth := by decide
    rw [if_neg (by omega), List.tail_drop, List.drop_append_of_le_length (by omega),
      show xs.length - handoffDepth + 1 = xs.length + 1 - handoffDepth by omega]

/-- The buffer after publishing into an empty one. -/
theorem foldl_publish {α : Type} (xs : List α) : xs.foldl publish [] = xs.drop (xs.length - handoffDepth) := by
  induction xs using List.reverseRecOn with
  | nil => rfl
  | append_singleton xs x ih => rw [List.foldl_concat, ih, publish_drop]

theorem latest_foldl_publish {α : Type} (xs : List α) : latest (xs.foldl publish []) = xs.getLast? := by
  have hdepth : 0 < handoffDepth := by decide
  rw [latest, foldl_publish, List.getLast?_drop]
  split
  · have hnil : xs = [] := List.length_eq_zero_iff.mp (by omega)
    rw [hnil]; rfl
  · rfl

/-- Settles O48: `foldl_publish`, and the last entry of what it leaves. -/
theorem handoffBufferKeepsTheLatest : Obligations.HandoffBufferKeepsTheLatest := fun xs =>
  ⟨foldl_publish xs, latest_foldl_publish xs, by rw [getMeasurement, latest_foldl_publish]⟩

end Sys2Proof.Machine
end
